-- ==== Sys2Proof/Word.lean ====
section
/-! DEFINITION. The words of the block: bytes and times (R8, R13, R53), and the fixed-length byte groups of a frame. -/

namespace Sys2Proof

/-- A byte, bit 7 the most significant (R8). -/
abbrev Byte := BitVec 8

/-- A time: an unsigned `TIME_W` = 64 bit count of microseconds (R6, R39). -/
abbrev Time := BitVec 64

/-- The ten bytes of a frame, byte 0 first on the stream (R51, R70). -/
abbrev Frame := Vector Byte 10

/-- The eight payload bytes, frame bytes 1 to 8 (R70). -/
abbrev Payload := Vector Byte 8

/-- A Command Vector: eight signed values, one per channel, channel 0 first (R12, R32).
Their range [-128, 127] is checked by `WellFormed`, not by the type. -/
abbrev CmdVec := Vector Int 8

end Sys2Proof
end

