-- ==== Sys2Proof/Config.lean ====
section
/-! DEFINITION. What is fixed for the machine: the constants of R5, and the free values (log 4), which have no body. -/

namespace Sys2Proof.Config

/-- `SYNC` (R5). -/
def sync : Byte := 0xAA#8

/-- `FRAME_TIMEOUT_US` (R5): the frame assembly window, 100 ms. -/
def frameTimeoutUs : Nat := 100000

/-- `HOLD_US` (R5): the indicator hold, 500 ms. -/
def holdUs : Nat := 500000

/-- `DUTY_SCALE` (R5). -/
def dutyScale : Nat := 2

/-- `DUTY_MAX` (R5). -/
def dutyMax : Nat := 254

/-- `CMD_MIN` (R5). -/
def cmdMin : Int := -128

/-- `CMD_MAX` (R5). -/
def cmdMax : Int := 127

/-- `TIME_W` (R6). -/
def timeW : Nat := 64

/-- Free bytes: what the RESET operation leaves in `BUF` (R213, U9). No body, so no proof can know a value. -/
opaque freeByte : Nat → Byte

/-- Free times: what the RESET operation leaves in `BASE` and `DEADLINE` (R213, U9). No body. -/
opaque freeTime : Nat → Time

end Sys2Proof.Config
end

