-- ==== Sys2Proof/Syntax.lean ====
section
/-! DEFINITION. The sixteen operations of R79 as one inductive, the small named sets of the spec (reader states,
colours, events, failures), and the two forms in which an operation comes to the model: an input of the block and a row
of the operation table with its bits. -/

namespace Sys2Proof

/-- `RSTATE` (R25). -/
inductive RState where
  | scan
  | assemble
deriving DecidableEq, Repr

/-- `COLOR` (R30, R75). Code 3 is reserved and left out of the type (R82, U12). -/
inductive Color where
  | idle
  | good
  | error
deriving DecidableEq, Repr

/-- `EVT` (R31, R74). -/
inductive Evt where
  | none
  | frameOk
  | frameTimeout
  | checksumMismatch
deriving DecidableEq, Repr

/-- The two failures the block raises (R181, R182). -/
inductive Failure where
  | frameTimeout
  | checksumMismatch
deriving DecidableEq, Repr

/-- The result of VALIDATE (R131). -/
inductive Verdict where
  | ok (payload : Payload)
  | checksumMismatch
deriving DecidableEq, Repr

/-- The value of a pure function of R79 evaluated as an operation of its own (log 7). -/
inductive FnResult where
  | csum (b : Byte)
  | validate (r : Verdict)
  | split (fwd rev : Byte)
  | encode (f : Frame)
deriving DecidableEq, Repr

/-- The operations of R79, one constructor per row of spec/opcode_table.json. `now` is the operand of `TIME_W` bits that
accompanies the word (R71). -/
inductive Instr where
  /-- RESET (R210). -/
  | reset
  /-- STEP.IDLE (R170): a step with no byte. -/
  | stepIdle (now : Time)
  /-- STEP.RX (R170): a step presenting the byte `b`. -/
  | stepRx (b : Byte) (now : Time)
  /-- POLL (R151). -/
  | poll (now : Time)
  /-- TCHK (R108). -/
  | tchk (now : Time)
  /-- RX.SCAN.DROP (R102). -/
  | rxScanDrop (b : Byte)
  /-- RX.SCAN.SYNC (R103); its byte is 0xAA. -/
  | rxScanSync
  /-- RX.ASM.FIRST (R104). -/
  | rxAsmFirst (b : Byte) (now : Time)
  /-- RX.ASM.MID (R105). -/
  | rxAsmMid (b : Byte)
  /-- RX.ASM.LAST (R106). -/
  | rxAsmLast (b : Byte) (now : Time)
  /-- CSUM (R130). -/
  | csum (p : Payload)
  /-- VALIDATE (R131). -/
  | validate (f : Frame)
  /-- SPLIT (R141); `v` is a signed 8-bit value. -/
  | split (v : Int)
  /-- MAP (R143). -/
  | map (cmd : CmdVec)
  /-- TRIGGER (R150). -/
  | trigger (c : Color) (now : Time)
  /-- ENCODE (R160). -/
  | encode (v : CmdVec)
deriving DecidableEq, Repr

/-- The rows of the operation table (R79). -/
inductive Row where
  | reset | stepIdle | stepRx | poll | tchk
  | rxScanDrop | rxScanSync | rxAsmFirst | rxAsmMid | rxAsmLast
  | csum | validate | split | map | trigger | encode
deriving DecidableEq, Repr

/-- The row an operation belongs to. -/
def Instr.row : Instr → Row
  | .reset => .reset
  | .stepIdle _ => .stepIdle
  | .stepRx _ _ => .stepRx
  | .poll _ => .poll
  | .tchk _ => .tchk
  | .rxScanDrop _ => .rxScanDrop
  | .rxScanSync => .rxScanSync
  | .rxAsmFirst _ _ => .rxAsmFirst
  | .rxAsmMid _ => .rxAsmMid
  | .rxAsmLast _ _ => .rxAsmLast
  | .csum _ => .csum
  | .validate _ => .validate
  | .split _ => .split
  | .map _ => .map
  | .trigger _ _ => .trigger
  | .encode _ => .encode

/-- An operation as the table writes it: its row, the row's bits as one number (bit 0 least significant, first byte of a
FRAME or FUNC word leftmost, R70), and the operand `now` (0 where the row has none). -/
structure OpWord where
  row  : Row
  bits : Nat
  now  : Time
deriving DecidableEq, Repr

/-- Why the decoder rejects a word. -/
inductive Reject where
  /-- A bit above the row's width is set. -/
  | tooWide (row : Row)
  /-- A fixed bit of the row's encoding differs. -/
  | fixedBits (row : Row)
  /-- Colour code 3, reserved (R75, R82). -/
  | reservedColor
  /-- Colour code 0 as a TRIGGER operand: TRIGGER is never called with `COLOR_IDLE` (R172). -/
  | idleColor
  /-- The byte 0xAA in the row RX.SCAN.DROP (R72 row 4: "not 0xAA"). -/
  | syncByte
  /-- A frame of the row ENCODE whose last byte is not the XOR of its payload (R160). -/
  | checksumField
  /-- A bit pattern of a length that no format has. -/
  | noFormat (nbits : Nat)
deriving DecidableEq, Repr

/-- The five RX operations R72 chooses among. -/
inductive RxOp where
  | drop
  | sync
  | first
  | mid
  | last
deriving DecidableEq, Repr

/-- The pure functions of R79, which can be evaluated apart from the block (R132, R136). -/
inductive Fn where
  | csum
  | validate
  | split
  | encode
deriving DecidableEq, Repr

/-- One input. `stim` is a step's input at the block's port: the stimulus word of R71 and the operand `now`. `call` is the
evaluation of a pure function on an operand word, which is no step of the block (log 7). `malformed` is a bit pattern of a
length that no format has. -/
inductive Input where
  | stim (word : BitVec 10) (now : Time)
  | call (fn : Fn) (operand : Nat)
  | malformed (nbits w : Nat)
deriving DecidableEq, Repr

end Sys2Proof
end

