-- ==== Sys2Proof/Machine/State.lean ====
section
/-! DEFINITION. The state: the registers of R20, the outputs of the last step (R31 to R33), and the model's own fields; the
ways a step can stop; the state after reset. -/

namespace Sys2Proof.Machine

/-- The state of the block. -/
structure State where
  /-- `RSTATE` (R25). -/
  rstate : RState
  /-- `CNT`, 0 to 8 (R26); the values 9 to 15 are left out of the type (R82, U12). -/
  cnt : Fin 9
  /-- `BUF[0..9]` (R21). -/
  buf : Frame
  /-- `BASE` (R28). -/
  base : Time
  /-- `ACTIVE` (R29). -/
  active : Bool
  /-- `COLOR` (R30). -/
  color : Color
  /-- `DEADLINE` (R42). -/
  deadline : Time
  /-- `FWD[0..7]` (R34). -/
  fwd : Vector Byte 8
  /-- `REV[0..7]` (R34). -/
  rev : Vector Byte 8
  /-- `EVT` of the last step (R31). -/
  evt : Evt
  /-- `CMD[0..7]` of the last step (R32); `none` where it has no value (U11). -/
  cmd : Option CmdVec
  /-- `DWR` of the last step, oldest write first (R33). -/
  dwr : List Color
  /-- The model's own: the value of the pure function evaluated last as an operation of its own (log 7). -/
  fnResult : Option FnResult
  /-- The model's own: `now` of the last step with `rst` = 0 since RESET, for the premise P-1 (R216, log 5). -/
  lastNow : Option Time
  /-- The model's own: the index of the next free value (log 4). -/
  freeIdx : Nat
  /-- The model's own: the inputs not yet taken, the next one first (R11, log 1). -/
  script : List Input
deriving DecidableEq, Repr

/-- The block has no fault that stops it: a failure is an event in a next state, and "must never halt" (R114, R195). So the
type has no constructor. -/
inductive Fault where
deriving DecidableEq, Repr

/-- Why the model gives no next state. -/
inductive Refusal where
  /-- An operation not modelled yet. Raised by `exec` alone; no arm raises it now. Safe. -/
  | notModelled (mnemonic : String)
  /-- Raised by `step` when no input is left: the environment has given no step (R175, R217 P-4; log 2). Safe. -/
  | noStimulus
  /-- Raised by `step` for an input that the decoder rejects. Safe. -/
  | undecodable (why : Reject)
  /-- Raised by every operation with the operand `now` when the clock goes backwards (R216 P-1, U5; log 5). Safe. -/
  | clockWentBack
  /-- Raised by every operation with the operand `now` when `now + 500000` needs more than `TIME_W` bits (R216 P-2, U5;
  log 5). Safe. -/
  | clockOverflow
  /-- Raised by an RX operation applied by itself in a state, or to a byte, for which R72 does not select it (R101, log 8).
  No step of the block raises it. Safe. -/
  | notSelected (row : Row)
  /-- Raised by SPLIT, MAP and ENCODE for a command outside [-128, 127], which is outside their domain (R141, R160 d, U2;
  log 9). No step of the block raises it. Safe. -/
  | outsideDomain (row : Row)
deriving DecidableEq, Repr

/-- The machine right after reset (R210). `BUF`, `BASE` and `DEADLINE` are unspecified (R213): the values here are the
model's (DESIGN CHOICE, log 3), not zero because R213 asks for that. -/
def State.reset : State where
  rstate := .scan
  cnt := 0
  buf := Vector.replicate 10 0x5A#8
  base := 0x5A5A5A5A5A5A5A5A#64
  active := false
  color := .idle
  deadline := 0x5A5A5A5A5A5A5A5A#64
  fwd := Vector.replicate 8 0#8
  rev := Vector.replicate 8 0#8
  evt := .none
  cmd := none
  dwr := []
  fnResult := none
  lastNow := none
  freeIdx := 0
  script := []

end Sys2Proof.Machine
end

