-- ==== Sys2Proof/Machine/Flags.lean ====
section
/-! DEFINITION. The conditions the operations test: the indicator's expiry (R151), the assembly window (R108), the premises
on the clock (R216). All comparisons are unsigned, on the exact values, so nothing wraps. -/

namespace Sys2Proof.Machine

/-- POLL's condition (R151): active, and `now >= DEADLINE`, not strict. -/
def State.expired (s : State) (now : Time) : Bool :=
  s.active && decide (s.deadline.toNat ≤ now.toNat)

/-- The assembly window runs: `ASSEMBLE` with `CNT >= 1`; `BASE` is meaningful exactly then (R28). -/
def State.windowRuns (s : State) : Bool :=
  s.rstate == .assemble && decide (1 ≤ s.cnt.val)

/-- The elapsed time `now - BASE` (R113). -/
def State.elapsed (s : State) (now : Time) : Nat := now.toNat - s.base.toNat

/-- TCHK's condition (R108): the window runs and `now - BASE > 100000`, strict. -/
def State.windowExceeded (s : State) (now : Time) : Bool :=
  s.windowRuns && decide (Config.frameTimeoutUs < s.elapsed now)

/-- A recorded clock reading, if there is one, is not later than `now`. -/
def notAfter (last : Option Time) (now : Time) : Bool :=
  match last with
  | none => true
  | some t => decide (t.toNat ≤ now.toNat)

/-- P-1 (R216): `now` is not less than the `now` of the step before, nor than `BASE` while the window runs, a reading of the
same clock (R113, I-8). -/
def State.clockMonotonic (s : State) (now : Time) : Bool :=
  notAfter s.lastNow now && (!s.windowRuns || decide (s.base.toNat ≤ now.toNat))

/-- P-2 (R216): `now + 500000 < 2^TIME_W`. -/
def clockFits (now : Time) : Bool :=
  decide (now.toNat + Config.holdUs < 2 ^ Config.timeW)

/-- The event code a failure is reported with (R181, R182). -/
def failureEvt : Failure → Evt
  | .frameTimeout => .frameTimeout
  | .checksumMismatch => .checksumMismatch

end Sys2Proof.Machine
end

