-- ==== Sys2Proof/WellFormed.lean ====
section
/-! DEFINITION. Which terms of `Instr` are operations of the spec: a dropped byte is not the sync byte (R72 row 4), a
trigger's colour is not the idle colour (R172), commands are signed 8-bit values (R9, R141, R160). -/

namespace Sys2Proof

/-- A signed 8-bit value (R9, R141). -/
abbrev CmdInRange (v : Int) : Prop := Config.cmdMin ≤ v ∧ v ≤ Config.cmdMax

/-- Every command of the vector is a signed 8-bit value (R12 "Command Vector", R160). -/
abbrev CmdVecInRange (v : CmdVec) : Prop := ∀ k : Fin 8, CmdInRange v[k]

/-- The operations of the spec among the terms of `Instr`. -/
abbrev WellFormed : Instr → Prop
  | .reset => True
  | .stepIdle _ => True
  | .stepRx _ _ => True
  | .poll _ => True
  | .tchk _ => True
  | .rxScanDrop b => b ≠ Config.sync
  | .rxScanSync => True
  | .rxAsmFirst _ _ => True
  | .rxAsmMid _ => True
  | .rxAsmLast _ _ => True
  | .csum _ => True
  | .validate _ => True
  | .split v => CmdInRange v
  | .map cmd => CmdVecInRange cmd
  | .trigger c _ => c ≠ .idle
  | .encode v => CmdVecInRange v

end Sys2Proof
end

