-- ==== Sys2Proof/Decode.lean ====
section
/-! DEFINITION. Numeric codes, byte and sign helpers, the operation table, the decoder (total, rejecting by name), the
state-dependent selection of R72, and the encoder. -/

namespace Sys2Proof

/-! ### Codes (R25, R74, R75) -/

/-- The code of `RSTATE` (R25, D1). -/
def RState.code : RState → BitVec 1
  | .scan => 0#1
  | .assemble => 1#1

/-- Format COLOR (R75). -/
def Color.code : Color → BitVec 2
  | .idle => 0#2
  | .good => 1#2
  | .error => 2#2

/-- The colour of a code; code 3 is reserved (R75). -/
def Color.ofCode (c : BitVec 2) : Option Color :=
  if c = 0#2 then some .idle
  else if c = 1#2 then some .good
  else if c = 2#2 then some .error
  else none

/-- Format EVT (R74). -/
def Evt.code : Evt → BitVec 2
  | .none => 0#2
  | .frameOk => 1#2
  | .frameTimeout => 2#2
  | .checksumMismatch => 3#2

/-! ### Signed bytes (R9) and bytes of a word (R70) -/

/-- `s8`: the signed reading of a byte (R9). -/
def s8 (b : Byte) : Int :=
  if b.toNat < 128 then (b.toNat : Int) else (b.toNat : Int) - 256

/-- `u8`: the unsigned 8-bit representation of a signed value of [-128, 127] (R9). -/
def u8 (v : Int) : Byte :=
  if 0 ≤ v then BitVec.ofNat 8 v.toNat else BitVec.ofNat 8 (v + 256).toNat

/-- The byte at bits `8k+7 : 8k` of a word. -/
def byteAt (bits k : Nat) : Byte := BitVec.ofNat 8 (bits >>> (8 * k))

/-- The eight bytes of a 64-bit operand word, `p[0]` in bits 63:56 (table row CSUM: field `a` leftmost). -/
def payloadOfBits (bits : Nat) : Payload :=
  #v[byteAt bits 7, byteAt bits 6, byteAt bits 5, byteAt bits 4,
     byteAt bits 3, byteAt bits 2, byteAt bits 1, byteAt bits 0]

/-- The ten bytes of an 80-bit frame, byte 0 in bits 79:72 (R70). -/
def frameOfBits (bits : Nat) : Frame :=
  #v[byteAt bits 9, byteAt bits 8, byteAt bits 7, byteAt bits 6, byteAt bits 5,
     byteAt bits 4, byteAt bits 3, byteAt bits 2, byteAt bits 1, byteAt bits 0]

/-- Bytes joined into one number, the first byte in the high bits (R8 `{a, b}`, R70). -/
def bitsOfBytes (bs : List Byte) : Nat :=
  bs.foldl (fun acc b => acc * 256 + b.toNat) 0

/-- The payload of a frame: bytes 1 to 8 (R70). -/
def payloadOf (f : Frame) : Payload :=
  #v[f[1], f[2], f[3], f[4], f[5], f[6], f[7], f[8]]

/-- CSUM (R130): the bitwise exclusive-or of eight bytes. -/
def csumOf (p : Payload) : Byte :=
  p[0] ^^^ p[1] ^^^ p[2] ^^^ p[3] ^^^ p[4] ^^^ p[5] ^^^ p[6] ^^^ p[7]

/-- The signed reading of a payload (R77): `CMD[k] = s8(BUF[k+1])`. -/
def commandsOf (p : Payload) : CmdVec :=
  #v[s8 p[0], s8 p[1], s8 p[2], s8 p[3], s8 p[4], s8 p[5], s8 p[6], s8 p[7]]

/-- The payload bytes of a Command Vector (R78). -/
def payloadOfCommands (v : CmdVec) : Payload :=
  #v[u8 v[0], u8 v[1], u8 v[2], u8 v[3], u8 v[4], u8 v[5], u8 v[6], u8 v[7]]

/-- ENCODE (R160): the ten bytes of a Command Vector. -/
def encodeFrame (v : CmdVec) : Frame :=
  let p := payloadOfCommands v
  #v[Config.sync, p[0], p[1], p[2], p[3], p[4], p[5], p[6], p[7], csumOf p]

/-- `clamp` (R78): what the sender's caller does before ENCODE. -/
def clampCommand (x : Int) : Int :=
  if x < Config.cmdMin then Config.cmdMin
  else if Config.cmdMax < x then Config.cmdMax
  else x

/-! ### The operation table -/

/-- The mnemonic of a row, as spec/opcode_table.json spells it. -/
def Row.mnemonic : Row → String
  | .reset => "RESET"
  | .stepIdle => "STEP.IDLE"
  | .stepRx => "STEP.RX"
  | .poll => "POLL"
  | .tchk => "TCHK"
  | .rxScanDrop => "RX.SCAN.DROP"
  | .rxScanSync => "RX.SCAN.SYNC"
  | .rxAsmFirst => "RX.ASM.FIRST"
  | .rxAsmMid => "RX.ASM.MID"
  | .rxAsmLast => "RX.ASM.LAST"
  | .csum => "CSUM"
  | .validate => "VALIDATE"
  | .split => "SPLIT"
  | .map => "MAP"
  | .trigger => "TRIGGER"
  | .encode => "ENCODE"

/-- One entry of the table: how many bits a row has, which of them are fixed, and their values. -/
structure RowSpec where
  width   : Nat
  mask    : Nat
  pattern : Nat
deriving DecidableEq, Repr

/-- spec/opcode_table.json: width (the length of "encoding"), "mask" and "match" of each row. VALIDATE has no fixed bit
here, since R132 gives it an effect for every byte 0 (log 12). -/
def Row.spec : Row → RowSpec
  | .reset      => ⟨10, 0x200, 0x200⟩
  | .stepIdle   => ⟨10, 0x300, 0x000⟩
  | .stepRx     => ⟨10, 0x300, 0x100⟩
  | .poll       => ⟨10, 0x200, 0x000⟩
  | .tchk       => ⟨10, 0x200, 0x000⟩
  | .rxScanDrop => ⟨10, 0x300, 0x100⟩
  | .rxScanSync => ⟨10, 0x3FF, 0x1AA⟩
  | .rxAsmFirst => ⟨10, 0x300, 0x100⟩
  | .rxAsmMid   => ⟨10, 0x300, 0x100⟩
  | .rxAsmLast  => ⟨10, 0x300, 0x100⟩
  | .csum       => ⟨64, 0, 0⟩
  | .validate   => ⟨80, 0, 0⟩
  | .split      => ⟨8, 0, 0⟩
  | .map        => ⟨64, 0, 0⟩
  | .trigger    => ⟨2, 0, 0⟩
  | .encode     => ⟨80, 0xFF000000000000000000, 0xAA000000000000000000⟩

/-! ### Decoding -/

/-- The operands of a row whose width and fixed bits have been checked. -/
def decodeOperands (row : Row) (bits : Nat) (now : Time) : Except Reject Instr :=
  match row with
  | .reset => .ok .reset
  | .stepIdle => .ok (.stepIdle now)
  | .stepRx => .ok (.stepRx (byteAt bits 0) now)
  | .poll => .ok (.poll now)
  | .tchk => .ok (.tchk now)
  | .rxScanDrop =>
    if byteAt bits 0 = Config.sync then .error .syncByte else .ok (.rxScanDrop (byteAt bits 0))
  | .rxScanSync => .ok .rxScanSync
  | .rxAsmFirst => .ok (.rxAsmFirst (byteAt bits 0) now)
  | .rxAsmMid => .ok (.rxAsmMid (byteAt bits 0))
  | .rxAsmLast => .ok (.rxAsmLast (byteAt bits 0) now)
  | .csum => .ok (.csum (payloadOfBits bits))
  | .validate => .ok (.validate (frameOfBits bits))
  | .split => .ok (.split (s8 (byteAt bits 0)))
  | .map => .ok (.map (commandsOf (payloadOfBits bits)))
  | .trigger =>
    match Color.ofCode (BitVec.ofNat 2 bits) with
    | none => .error .reservedColor
    | some .idle => .error .idleColor
    | some c => .ok (.trigger c now)
  | .encode =>
    if csumOf (payloadOf (frameOfBits bits)) = (frameOfBits bits)[9] then
      .ok (.encode (commandsOf (payloadOf (frameOfBits bits))))
    else .error .checksumField

/-- The decoder of a row's word: total, every rejection by name. -/
def decode (w : OpWord) : Except Reject Instr :=
  if 2 ^ w.row.spec.width ≤ w.bits then .error (.tooWide w.row)
  else if w.bits &&& w.row.spec.mask ≠ w.row.spec.pattern then .error (.fixedBits w.row)
  else decodeOperands w.row w.bits w.now

/-- What a stimulus word selects at the port (R71, R72 rows 1, 2 and 3 to 7): `rst` first, then `rx_valid`. Total. -/
def decodeStim (word : BitVec 10) (now : Time) : Instr :=
  if word.getLsbD 9 then .reset
  else if word.getLsbD 8 then .stepRx (word.extractLsb' 0 8) now
  else .stepIdle now

/-- R72 rows 3 to 7: the RX operation for a byte, on `RSTATE` and `CNT` as TCHK left them. -/
def selectRx (r : RState) (cnt : Fin 9) (b : Byte) : RxOp :=
  match r with
  | .scan => if b = Config.sync then .sync else .drop
  | .assemble => if cnt.val = 0 then .first else if cnt.val = 8 then .last else .mid

/-- The operation of R79 that an RX operation is, with its operands. -/
def RxOp.instr (op : RxOp) (b : Byte) (now : Time) : Instr :=
  match op with
  | .drop => .rxScanDrop b
  | .sync => .rxScanSync
  | .first => .rxAsmFirst b now
  | .mid => .rxAsmMid b
  | .last => .rxAsmLast b now

/-- The row of a pure function. -/
def Fn.row : Fn → Row
  | .csum => .csum
  | .validate => .validate
  | .split => .split
  | .encode => .encode

/-- The operation an input stands for. -/
def decodeInput : Input → Except Reject Instr
  | .stim word now => .ok (decodeStim word now)
  | .call fn operand => decode ⟨fn.row, operand, 0#64⟩
  | .malformed nbits _ => .error (.noFormat nbits)

/-- The input that a word of the operation table is when it is presented from outside (log 10). A word of two bytes is a
stimulus word in bits 9:0, followed by `now` from bit 16 on; a word of one, eight or ten bytes is the operand of SPLIT, CSUM
or VALIDATE, the functions with words of that length that can be evaluated at the receiving block. -/
def inputOfTableWord (nbits w : Nat) : Input :=
  if nbits = 8 then .call .split w
  else if nbits = 64 then .call .csum w
  else if nbits = 80 then .call .validate w
  else if nbits = 10 ∨ nbits = 16 then
    if w % 2 ^ 16 < 2 ^ 10 then .stim (BitVec.ofNat 10 w) (BitVec.ofNat 64 (w >>> 16))
    else .malformed nbits w
  else .malformed nbits w

/-- The instruction the decoder reads from an instruction whose bits are `w`, numbered as the table numbers them. -/
def decodeTableWord (nbits w : Nat) : Option Instr :=
  match decodeInput (inputOfTableWord nbits w) with
  | .ok i => some i
  | .error _ => none

/-! ### Encoding -/

/-- The word of an operation, from the table's encodings. Ignored bits are 0. -/
def encode (i : Instr) : OpWord :=
  match i with
  | .reset => ⟨.reset, 0x200, 0#64⟩
  | .stepIdle now => ⟨.stepIdle, 0x000, now⟩
  | .stepRx b now => ⟨.stepRx, 0x100 + b.toNat, now⟩
  | .poll now => ⟨.poll, 0x000, now⟩
  | .tchk now => ⟨.tchk, 0x000, now⟩
  | .rxScanDrop b => ⟨.rxScanDrop, 0x100 + b.toNat, 0#64⟩
  | .rxScanSync => ⟨.rxScanSync, 0x1AA, 0#64⟩
  | .rxAsmFirst b now => ⟨.rxAsmFirst, 0x100 + b.toNat, now⟩
  | .rxAsmMid b => ⟨.rxAsmMid, 0x100 + b.toNat, 0#64⟩
  | .rxAsmLast b now => ⟨.rxAsmLast, 0x100 + b.toNat, now⟩
  | .csum p => ⟨.csum, bitsOfBytes p.toList, 0#64⟩
  | .validate f => ⟨.validate, bitsOfBytes f.toList, 0#64⟩
  | .split v => ⟨.split, (u8 v).toNat, 0#64⟩
  | .map cmd => ⟨.map, bitsOfBytes (payloadOfCommands cmd).toList, 0#64⟩
  | .trigger c now => ⟨.trigger, c.code.toNat, now⟩
  | .encode v => ⟨.encode, bitsOfBytes (encodeFrame v).toList, 0#64⟩

/-- The input at the port that gives a RESET or a STEP (R71); no other operation is selectable there (R79). -/
def stimOf : Instr → Option Input
  | .reset => some (.stim 0x200#10 0#64)
  | .stepIdle now => some (.stim 0x000#10 now)
  | .stepRx b now => some (.stim (0x100#10 ||| b.zeroExtend 10) now)
  | .poll _ | .tchk _ | .rxScanDrop _ | .rxScanSync | .rxAsmFirst _ _ | .rxAsmMid _ | .rxAsmLast _ _ => none
  | .csum _ | .validate _ | .split _ | .map _ | .trigger _ _ | .encode _ => none

end Sys2Proof
end

