-- ==== Sys2Proof/Machine/Operands.lean ====
section
/-! DEFINITION. The functions the operations apply to their operands: the verdict of the validator (R131), the duty
splitter (R141), and the output bus of the commands (R76). -/

namespace Sys2Proof.Machine

/-- VALIDATE (R131): bytes 1 to 8 when their XOR is byte 9. Byte 0 is not examined (R132). -/
def validateFrame (f : Frame) : Verdict :=
  if csumOf (payloadOf f) = f[9] then .ok (payloadOf f) else .checksumMismatch

/-- The duty of a magnitude: twice it, computed without wrapping, at most 254 (R141, R142 c and d). -/
def dutyOf (mag : Nat) : Byte :=
  BitVec.ofNat 8 (min (Config.dutyScale * mag) Config.dutyMax)

/-- SPLIT (R141): (forward, reverse). -/
def splitDuty (v : Int) : Byte × Byte :=
  if 0 < v then (dutyOf v.toNat, 0#8)
  else if v < 0 then (0#8, dutyOf (-v).toNat)
  else (0#8, 0#8)

/-- The forward duties of a Command Vector, lane by lane (R143). -/
def forwardDuties (cmd : CmdVec) : Vector Byte 8 :=
  #v[(splitDuty cmd[0]).1, (splitDuty cmd[1]).1, (splitDuty cmd[2]).1, (splitDuty cmd[3]).1,
     (splitDuty cmd[4]).1, (splitDuty cmd[5]).1, (splitDuty cmd[6]).1, (splitDuty cmd[7]).1]

/-- The reverse duties of a Command Vector, lane by lane (R143). -/
def reverseDuties (cmd : CmdVec) : Vector Byte 8 :=
  #v[(splitDuty cmd[0]).2, (splitDuty cmd[1]).2, (splitDuty cmd[2]).2, (splitDuty cmd[3]).2,
     (splitDuty cmd[4]).2, (splitDuty cmd[5]).2, (splitDuty cmd[6]).2, (splitDuty cmd[7]).2]

/-- `CMD` as the flat bus `CMD[7], ..., CMD[0]` of 64 bits, `CMD[7]` in the high bits (R76). -/
def cmdBus (cmd : CmdVec) : BitVec 64 :=
  BitVec.ofNat 64 (bitsOfBytes (payloadOfCommands cmd).toList.reverse)

end Sys2Proof.Machine
end

