-- ==== Sys2Proof/Machine/Ops.lean ====
section
/-! DEFINITION. The shared operations on the state: register writes, display writes, the indicator's trigger, the entry of a
failure (R190, the block's exception entry; R193: there is no return operation), the micro-operations as functions on the
state, the guard on the clock, and fetching an input. -/

namespace Sys2Proof.Machine

/-! ### Registers and outputs -/

/-- The sequencing registers `RSTATE` and `CNT` (R25, R26). -/
def State.setReader (s : State) (r : RState) (c : Fin 9) : State :=
  { s with rstate := r, cnt := c }

/-- `BUF[CNT+1] <- b` (R177); the index is 1 to 9. -/
def State.storeByte (s : State) (b : Byte) : State :=
  { s with buf := s.buf.set (s.cnt.val + 1) b (by have := s.cnt.isLt; omega) }

/-- `CNT + 1`, or 0 on the ninth byte (R177). -/
def nextCnt (c : Fin 9) : Fin 9 :=
  if h : c.val + 1 < 9 then ⟨c.val + 1, h⟩ else 0

/-- `emit DisplayWrite(c)` (R10, R33). -/
def State.emit (s : State) (c : Color) : State := { s with dwr := s.dwr ++ [c] }

/-- `EVT <- e` (R10). -/
def State.setEvt (s : State) (e : Evt) : State := { s with evt := e }

/-- The start of a step: `EVT` none, `DWR` empty, `CMD` without value (R174). -/
def State.beginStep (s : State) : State := { s with evt := .none, cmd := none, dwr := [] }

/-- The result of a pure function evaluated as an operation of its own (log 7). -/
def State.setResult (s : State) (r : FnResult) : State := { s with fnResult := some r }

/-! ### Indicator and failure entry -/

/-- `DEADLINE` of a trigger at `now` (R150). Under P-2 the sum does not wrap. -/
def holdUntil (now : Time) : Time := now + BitVec.ofNat 64 Config.holdUs

/-- TRIGGER (R150). -/
def State.showColor (s : State) (c : Color) (now : Time) : State :=
  { s with active := true, color := c, deadline := holdUntil now }.emit c

/-- POLL (R151). -/
def State.pollAt (s : State) (now : Time) : State :=
  if s.expired now then { s with active := false, color := .idle }.emit .idle else s

/-- `raise FrameTimeout()`, `raise ChecksumMismatch()` (R190): discard the assembly, show the failure, report it. Nothing is
saved and there is no handler; the duty registers keep their values (R191). -/
def State.raiseFailure (s : State) (f : Failure) (now : Time) : State :=
  ((s.setReader .scan 0).showColor .error now).setEvt (failureEvt f)

/-- TCHK (R108). -/
def State.checkWindow (s : State) (now : Time) : State :=
  if s.windowExceeded now then s.raiseFailure .frameTimeout now else s

/-! ### Duty registers -/

/-- MAP (R143): all sixteen registers, from the vector alone. -/
def State.mapDuties (s : State) (cmd : CmdVec) : State :=
  { s with fwd := forwardDuties cmd, rev := reverseDuties cmd }

/-! ### The RX operations -/

/-- RX.SCAN.SYNC (R103). -/
def State.acceptSync (s : State) : State :=
  { s with buf := s.buf.set 0 Config.sync }.setReader .assemble 0

/-- RX.ASM.FIRST (R104). -/
def State.takeFirst (s : State) (b : Byte) (now : Time) : State :=
  { s.storeByte b with base := now, cnt := nextCnt s.cnt }

/-- RX.ASM.MID (R105). -/
def State.takeMid (s : State) (b : Byte) : State :=
  { s.storeByte b with cnt := nextCnt s.cnt }

/-- The success branch of RX.ASM.LAST (R106): `CMD`, MAP, TRIGGER, `EVT`. -/
def State.acceptFrame (s : State) (p : Payload) (now : Time) : State :=
  (({ s with cmd := some (commandsOf p) }.mapDuties (commandsOf p)).showColor .good now).setEvt .frameOk

/-- What RX.ASM.LAST does with the validator's verdict (R106). -/
def State.judge (s : State) (v : Verdict) (now : Time) : State :=
  match v with
  | .ok p => s.acceptFrame p now
  | .checksumMismatch => s.raiseFailure .checksumMismatch now

/-- RX.ASM.LAST (R106): store the ninth byte, validate, act, return to scanning. -/
def State.takeLast (s : State) (b : Byte) (now : Time) : State :=
  ((s.storeByte b).judge (validateFrame (s.storeByte b).buf) now).setReader .scan 0

/-- The RX operation of a step (R170), the one R72 selects on the state TCHK left. -/
def State.receive (s : State) (b : Byte) (now : Time) : State :=
  match selectRx s.rstate s.cnt b with
  | .drop => s
  | .sync => s.acceptSync
  | .first => s.takeFirst b now
  | .mid => s.takeMid b
  | .last => s.takeLast b now

/-! ### Steps -/

/-- Runs `k` with the clock reading `now` recorded, when `now` meets the premises P-1 and P-2 of R216; refuses otherwise
(U5, log 5). -/
def atTime (now : Time) (s : State) (k : State → Host.Outcome State Fault Refusal) :
    Host.Outcome State Fault Refusal :=
  if !clockFits now then .refused .clockOverflow
  else if !s.clockMonotonic now then .refused .clockWentBack
  else k { s with lastNow := some now }

/-- The part of every step with `rst` = 0 before the byte: cleared outputs, POLL, TCHK (R170). -/
def State.housekeep (s : State) (now : Time) : State :=
  (s.beginStep.pollAt now).checkWindow now

/-- RESET (R210). `BUF`, `BASE` and `DEADLINE` take free values (R213, log 4); the clock premise starts anew (log 5); the
inputs to come and the last function result are not the block's and stay. -/
def State.resetRegisters (s : State) : State :=
  { s with
    rstate := .scan, cnt := 0
    active := false, color := .idle
    fwd := Vector.replicate 8 0#8, rev := Vector.replicate 8 0#8
    buf := #v[Config.freeByte s.freeIdx, Config.freeByte (s.freeIdx + 1), Config.freeByte (s.freeIdx + 2),
              Config.freeByte (s.freeIdx + 3), Config.freeByte (s.freeIdx + 4), Config.freeByte (s.freeIdx + 5),
              Config.freeByte (s.freeIdx + 6), Config.freeByte (s.freeIdx + 7), Config.freeByte (s.freeIdx + 8),
              Config.freeByte (s.freeIdx + 9)]
    base := Config.freeTime s.freeIdx
    deadline := Config.freeTime (s.freeIdx + 1)
    evt := .none, cmd := none, dwr := []
    lastNow := none
    freeIdx := s.freeIdx + 10 }

/-- Sequencing of operations: the second runs on the state the first answers. -/
def andThen (o : Host.Outcome State Fault Refusal) (k : State → Host.Outcome State Fault Refusal) :
    Host.Outcome State Fault Refusal :=
  match o with
  | .next s => k s
  | .fault r => .fault r
  | .refused r => .refused r

/-! ### Fetching -/

/-- The next input and the state without it (R11: the inputs of a step are sampled once, at its start). -/
def State.fetch (s : State) : Option (Input × State) :=
  match s.script with
  | [] => none
  | i :: rest => some (i, { s with script := rest })

/-- `s` with an input placed before the others. -/
def State.withInput (s : State) (i : Input) : State := { s with script := i :: s.script }

end Sys2Proof.Machine
end

