-- ==== Sys2Proof/Machine/Control.lean ====
section
/-! DEFINITION. The operations selected at the port: RESET (R210), STEP.IDLE and STEP.RX (R170). -/

namespace Sys2Proof.Machine

/-- RESET (R210): in any state, `now` and the byte ignored (R214). -/
def execReset (s : State) : Host.Outcome State Fault Refusal :=
  .next s.resetRegisters

/-- STEP.IDLE (R170): POLL, then TCHK. -/
def execStepIdle (now : Time) (s : State) : Host.Outcome State Fault Refusal :=
  atTime now s fun s => .next (s.housekeep now)

/-- STEP.RX (R170): POLL, then TCHK, then the RX operation R72 selects on the state TCHK left. -/
def execStepRx (b : Byte) (now : Time) (s : State) : Host.Outcome State Fault Refusal :=
  atTime now s fun s => .next ((s.housekeep now).receive b now)

end Sys2Proof.Machine
end

