-- ==== Sys2Proof/Machine/Functions.lean ====
section
/-! DEFINITION. The pure functions evaluated as operations of their own: CSUM (R130), VALIDATE (R131), SPLIT (R141), ENCODE
(R160). They read and write no register of the block (R136); the result goes to the model's field `fnResult` (log 7). -/

namespace Sys2Proof.Machine

/-- CSUM (R130). -/
def execCsum (p : Payload) (s : State) : Host.Outcome State Fault Refusal :=
  .next (s.setResult (.csum (csumOf p)))

/-- VALIDATE (R131). -/
def execValidate (f : Frame) (s : State) : Host.Outcome State Fault Refusal :=
  .next (s.setResult (.validate (validateFrame f)))

/-- SPLIT (R141); outside signed 8 bits it has no meaning (log 9). -/
def execSplit (v : Int) (s : State) : Host.Outcome State Fault Refusal :=
  if CmdInRange v then .next (s.setResult (.split (splitDuty v).1 (splitDuty v).2))
  else .refused (.outsideDomain .split)

/-- ENCODE (R160); outside [-128, 127] it has no meaning (R160 d, U2). -/
def execEncode (v : CmdVec) (s : State) : Host.Outcome State Fault Refusal :=
  if CmdVecInRange v then .next (s.setResult (.encode (encodeFrame v)))
  else .refused (.outsideDomain .encode)

end Sys2Proof.Machine
end

