-- ==== Sys2Proof/Machine/Outputs.lean ====
section
/-! DEFINITION. The operations on what the block drives: MAP on the duty registers (R143), TRIGGER (R150) and POLL (R151)
on the indicator. -/

namespace Sys2Proof.Machine

/-- MAP (R143); a command outside signed 8 bits is none (log 9). -/
def execMap (cmd : CmdVec) (s : State) : Host.Outcome State Fault Refusal :=
  if CmdVecInRange cmd then .next (s.mapDuties cmd) else .refused (.outsideDomain .map)

/-- TRIGGER (R150). -/
def execTrigger (c : Color) (now : Time) (s : State) : Host.Outcome State Fault Refusal :=
  atTime now s fun s => .next (s.showColor c now)

/-- POLL (R151). -/
def execPoll (now : Time) (s : State) : Host.Outcome State Fault Refusal :=
  atTime now s fun s => .next (s.pollAt now)

end Sys2Proof.Machine
end

