-- ==== Sys2Proof/Machine/Reader.lean ====
section
/-! DEFINITION. The Frame Reader's operations applied by themselves: RX.SCAN.DROP, RX.SCAN.SYNC, RX.ASM.FIRST, RX.ASM.MID,
RX.ASM.LAST (R102 to R106) and TCHK (R108). An RX operation outside the condition under which R72 selects it has no meaning
(R101) and is refused by name (log 8). -/

namespace Sys2Proof.Machine

/-- RX.SCAN.DROP (R102): nothing; every register keeps its value. -/
def execRxScanDrop (b : Byte) (s : State) : Host.Outcome State Fault Refusal :=
  if selectRx s.rstate s.cnt b = .drop then .next s else .refused (.notSelected .rxScanDrop)

/-- RX.SCAN.SYNC (R103). -/
def execRxScanSync (s : State) : Host.Outcome State Fault Refusal :=
  if selectRx s.rstate s.cnt Config.sync = .sync then .next s.acceptSync
  else .refused (.notSelected .rxScanSync)

/-- RX.ASM.FIRST (R104). -/
def execRxAsmFirst (b : Byte) (now : Time) (s : State) : Host.Outcome State Fault Refusal :=
  if selectRx s.rstate s.cnt b = .first then atTime now s fun s => .next (s.takeFirst b now)
  else .refused (.notSelected .rxAsmFirst)

/-- RX.ASM.MID (R105). -/
def execRxAsmMid (b : Byte) (s : State) : Host.Outcome State Fault Refusal :=
  if selectRx s.rstate s.cnt b = .mid then .next (s.takeMid b)
  else .refused (.notSelected .rxAsmMid)

/-- RX.ASM.LAST (R106). -/
def execRxAsmLast (b : Byte) (now : Time) (s : State) : Host.Outcome State Fault Refusal :=
  if selectRx s.rstate s.cnt b = .last then atTime now s fun s => .next (s.takeLast b now)
  else .refused (.notSelected .rxAsmLast)

/-- TCHK (R108). -/
def execTchk (now : Time) (s : State) : Host.Outcome State Fault Refusal :=
  atTime now s fun s => .next (s.checkWindow now)

end Sys2Proof.Machine
end

