-- ==== Sys2Proof/Machine/Dispatch.lean ====
section
/-! DEFINITION. One arm per operation of R79. -/

namespace Sys2Proof.Machine

def exec (i : Instr) (s : State) : Host.Outcome State Fault Refusal :=
  match i with
  | .reset => Sys2Proof.Machine.execReset s
  | .stepIdle now => Sys2Proof.Machine.execStepIdle now s
  | .stepRx b now => Sys2Proof.Machine.execStepRx b now s
  | .poll now => Sys2Proof.Machine.execPoll now s
  | .tchk now => Sys2Proof.Machine.execTchk now s
  | .rxScanDrop b => Sys2Proof.Machine.execRxScanDrop b s
  | .rxScanSync => Sys2Proof.Machine.execRxScanSync s
  | .rxAsmFirst b now => Sys2Proof.Machine.execRxAsmFirst b now s
  | .rxAsmMid b => Sys2Proof.Machine.execRxAsmMid b s
  | .rxAsmLast b now => Sys2Proof.Machine.execRxAsmLast b now s
  | .csum p => Sys2Proof.Machine.execCsum p s
  | .validate f => Sys2Proof.Machine.execValidate f s
  | .split v => Sys2Proof.Machine.execSplit v s
  | .map cmd => Sys2Proof.Machine.execMap cmd s
  | .trigger c now => Sys2Proof.Machine.execTrigger c now s
  | .encode v => Sys2Proof.Machine.execEncode v s

end Sys2Proof.Machine
end

