-- ==== Sys2Proof/Machine/Step.lean ====
section
/-! DEFINITION. One step of the machine: take the next input, decode it, run the operation. -/

namespace Sys2Proof.Machine

/-- One step (R11): the operation of the next input, on the state without that input. With no input left there is no step
(R175) and the model refuses (log 2). -/
def step (s : State) : Host.Outcome State Fault Refusal :=
  match s.fetch with
  | none => .refused .noStimulus
  | some (inp, s') =>
    match decodeInput inp with
    | .ok i => exec i s'
    | .error why => .refused (.undecodable why)

/-- `s` with the table word `w` of `nbits` bits as its next input (log 2, log 10). -/
def State.withFetchWord (s : State) (nbits w : Nat) : State :=
  s.withInput (inputOfTableWord nbits w)

end Sys2Proof.Machine
end

