-- ==== Sys2Proof/Machine/Reference.lean ====
section
/-! DEFINITION. The whole step of R173 as one function, transcribed line by line and using none of the operations the
meanings are made of, but for SPLIT, which R173 calls too. `Obligations.StepAgreesWithReference` says the meanings agree
with it. -/

namespace Sys2Proof.Machine

/-- R173, the paragraph "POLL", with the outputs emptied before it. -/
def refPoll (s : State) (now : Time) : State :=
  let s0 := { s with evt := .none, dwr := [], cmd := none }
  if s0.active = true ∧ now.toNat ≥ s0.deadline.toNat then
    { s0 with active := false, color := .idle, dwr := s0.dwr ++ [.idle] }
  else s0

/-- R173, the paragraph "TCHK". -/
def refTchk (s : State) (now : Time) : State :=
  if s.rstate = .assemble ∧ s.cnt.val ≥ 1 ∧ now.toNat - s.base.toNat > 100000 then
    { s with
      rstate := .scan, cnt := 0
      active := true, color := .error, deadline := now + 500000#64
      dwr := s.dwr ++ [.error], evt := .frameTimeout }
  else s

/-- R173, the end of the paragraph "RX": nine bytes follow the sync byte in `buf`. -/
def refComplete (s : State) (buf : Frame) (base now : Time) : State :=
  if buf[1] ^^^ buf[2] ^^^ buf[3] ^^^ buf[4] ^^^ buf[5] ^^^ buf[6] ^^^ buf[7] ^^^ buf[8] = buf[9] then
    let cmd : CmdVec := Vector.ofFn fun k : Fin 8 => s8 (buf[k.val + 1])
    { s with
      buf := buf, base := base
      cmd := some cmd
      fwd := Vector.ofFn fun k : Fin 8 => (splitDuty cmd[k]).1
      rev := Vector.ofFn fun k : Fin 8 => (splitDuty cmd[k]).2
      active := true, color := .good, deadline := now + 500000#64
      dwr := s.dwr ++ [.good], evt := .frameOk
      rstate := .scan, cnt := 0 }
  else
    { s with
      buf := buf, base := base
      active := true, color := .error, deadline := now + 500000#64
      dwr := s.dwr ++ [.error], evt := .checksumMismatch
      rstate := .scan, cnt := 0 }

/-- R173, the paragraph "RX". -/
def refRx (s : State) (now : Time) (b : Byte) : State :=
  if s.rstate = .scan then
    if b = 0xAA#8 then { s with buf := s.buf.set 0 0xAA#8, rstate := .assemble, cnt := 0 }
    else s
  else
    let buf := s.buf.set (s.cnt.val + 1) b (by have := s.cnt.isLt; omega)
    let base := if s.cnt = 0 then now else s.base
    if h : s.cnt.val + 1 < 9 then { s with buf := buf, base := base, cnt := ⟨s.cnt.val + 1, h⟩ }
    else refComplete s buf base now

/-- `step(S, now, rx)` of R173. -/
def stepReference (s : State) (now : Time) (rx : Option Byte) : State :=
  let s' := refTchk (refPoll s now) now
  match rx with
  | none => s'
  | some b => refRx s' now b

end Sys2Proof.Machine
end

