-- ==== Sys2Proof/Machine/Sender.lean ====
section
/-! DEFINITION. The sending node's line of integers (R78, R85, R86): not part of the block and no row of the operation table;
kept, as ENCODE is, because testable property 7 of the source is written in it. Reading the text into integers is excluded
by R4. -/

namespace Sys2Proof.Machine

/-- What the sender does with a line (R85). -/
inductive LineAction where
  /-- 4 tokens: a local servo update, no frame. -/
  | servosOnly (servos : Vector Int 4)
  /-- 8 tokens: one frame. -/
  | motorsOnly (f : Frame)
  /-- 12 tokens: one frame and a local servo update. -/
  | motorsAndServos (f : Frame) (servos : Vector Int 4)
  /-- Any other count: `InputParseError` (R183), no frame. -/
  | inputParseError
deriving DecidableEq, Repr

/-- The servo clamp (R85: to [-90, 90]). -/
def clampServo (x : Int) : Int :=
  if x < -90 then -90 else if 90 < x then 90 else x

/-- The frame of eight motor tokens (R86): clamped, then encoded. -/
def lineFrame (v : CmdVec) : Frame :=
  encodeFrame #v[clampCommand v[0], clampCommand v[1], clampCommand v[2], clampCommand v[3],
    clampCommand v[4], clampCommand v[5], clampCommand v[6], clampCommand v[7]]

/-- The token grammar of R85. -/
def assembleLine : List Int → LineAction
  | [a, b, c, d] => .servosOnly #v[clampServo a, clampServo b, clampServo c, clampServo d]
  | [a, b, c, d, e, f, g, h] => .motorsOnly (lineFrame #v[a, b, c, d, e, f, g, h])
  | [a, b, c, d, e, f, g, h, i, j, k, l] =>
    .motorsAndServos (lineFrame #v[a, b, c, d, e, f, g, h]) #v[clampServo i, clampServo j, clampServo k, clampServo l]
  | _ => .inputParseError

end Sys2Proof.Machine
end

