-- ==== Sys2Proof/Safety.lean ====
section
/-! DEFINITION. What counts as a safe state, and the relations the statements use: the invariants of R43, the clock premises
of R216, frames, and equality of everything that has a meaning. -/

namespace Sys2Proof.Machine

/-- The invariants of R43. I-2 (`CNT <= 8`) is in the type of `cnt`; I-9 is stated as far as one state can say it (the
deadline is 500000 after some reading of the clock not later than the last step's). The last field says that `CMD` has a
value exactly with `EVT_FRAME_OK` (R32). -/
structure State.Inv (s : State) : Prop where
  /-- I-1 -/
  scan_cnt : s.rstate = .scan → s.cnt = 0
  /-- I-3 -/
  assemble_sync : s.rstate = .assemble → s.buf[0] = 0xAA#8
  /-- I-4 -/
  one_direction : ∀ k : Fin 8, s.fwd[k] = 0#8 ∨ s.rev[k] = 0#8
  /-- I-5, forward -/
  fwd_even : ∀ k : Fin 8, s.fwd[k].toNat % 2 = 0 ∧ s.fwd[k].toNat ≤ 254
  /-- I-5, reverse -/
  rev_even : ∀ k : Fin 8, s.rev[k].toNat % 2 = 0 ∧ s.rev[k].toNat ≤ 254
  /-- I-6 -/
  idle_color : s.active = false → s.color = .idle
  /-- I-7 -/
  active_color : s.active = true → s.color = .good ∨ s.color = .error
  /-- I-8 -/
  base_past : s.rstate = .assemble → 1 ≤ s.cnt.val →
    ∃ t, s.lastNow = some t ∧ s.base.toNat ≤ t.toNat
  /-- I-9 -/
  deadline_hold : s.active = true →
    ∃ t, s.lastNow = some t ∧ 500000 ≤ s.deadline.toNat ∧ s.deadline.toNat ≤ t.toNat + 500000
  /-- R32 -/
  cmd_valid : s.evt = .frameOk ↔ s.cmd.isSome = true

/-- P-1 and P-2 of R216 for a step at `now`. -/
structure State.Premises (s : State) (now : Time) : Prop where
  /-- P-1 -/
  monotonic : ∀ t, s.lastNow = some t → t.toNat ≤ now.toNat
  /-- P-2 -/
  fits : now.toNat + 500000 < 2 ^ 64

/-- The premises of R216 together with I-8 at `now`: whenever `BASE` is read, it is no later than `now` (R113). In a state
that meets the invariant this follows from `Premises`. -/
structure State.TimeOk (s : State) (now : Time) : Prop extends s.Premises now where
  window : s.rstate = .assemble → 1 ≤ s.cnt.val → s.base.toNat ≤ now.toNat

/-- TCHK's condition in the words of R108. -/
def State.TimedOut (s : State) (now : Time) : Prop :=
  s.rstate = .assemble ∧ 1 ≤ s.cnt.val ∧ now.toNat - s.base.toNat > 100000

/-- POLL's condition in the words of R151. -/
def State.Expires (s : State) (now : Time) : Prop :=
  s.active = true ∧ now.toNat ≥ s.deadline.toNat

/-! ### Frames -/

/-- `RSTATE`, `CNT`, `BUF`, `BASE` are unchanged. -/
def State.SameReader (s t : State) : Prop :=
  t.rstate = s.rstate ∧ t.cnt = s.cnt ∧ t.buf = s.buf ∧ t.base = s.base

/-- `ACTIVE`, `COLOR`, `DEADLINE` are unchanged. -/
def State.SameIndicator (s t : State) : Prop :=
  t.active = s.active ∧ t.color = s.color ∧ t.deadline = s.deadline

/-- The sixteen duty registers are unchanged. -/
def State.SameDuties (s t : State) : Prop := t.fwd = s.fwd ∧ t.rev = s.rev

/-- `EVT`, `CMD`, `DWR` are unchanged. -/
def State.SameOutputs (s t : State) : Prop := t.evt = s.evt ∧ t.cmd = s.cmd ∧ t.dwr = s.dwr

/-- The model's own fields but for `lastNow` are unchanged. -/
def State.SameOwn (s t : State) : Prop :=
  t.fnResult = s.fnResult ∧ t.freeIdx = s.freeIdx ∧ t.script = s.script

/-! ### What has a meaning -/

/-- Two states agree on everything that has a meaning (R22, R28, R42, R213, U10): `BASE` counts only while the window runs,
`DEADLINE` only while `ACTIVE`, and of `BUF` only the payload bytes collected in the assembly at hand. -/
structure State.Agree (s t : State) : Prop where
  rstate : s.rstate = t.rstate
  cnt : s.cnt = t.cnt
  active : s.active = t.active
  color : s.color = t.color
  fwd : s.fwd = t.fwd
  rev : s.rev = t.rev
  evt : s.evt = t.evt
  cmd : s.cmd = t.cmd
  dwr : s.dwr = t.dwr
  fnResult : s.fnResult = t.fnResult
  lastNow : s.lastNow = t.lastNow
  script : s.script = t.script
  base : s.rstate = .assemble → 1 ≤ s.cnt.val → s.base = t.base
  deadline : s.active = true → s.deadline = t.deadline
  buf : s.rstate = .assemble → ∀ i : Fin 10, 1 ≤ i.val → i.val ≤ s.cnt.val → s.buf[i] = t.buf[i]

/-! ### Runs -/

/-- The input that presents the byte `b` at `now` (R71: `rst` = 0, `rx_valid` = 1). -/
def byteInput (b : Byte) (now : Time) : Input := .stim (0x100#10 ||| b.zeroExtend 10) now

/-- The input of a step with no byte at `now` (R71). -/
def idleInput (now : Time) : Input := .stim 0x000#10 now

/-- POLL at each time of a list, one after another. -/
def pollsAt : List Time → State → Host.Outcome State Fault Refusal
  | [], s => .next s
  | t :: ts, s => andThen (exec (.poll t) s) (pollsAt ts)

/-- An assembly is open. -/
def State.openFrames (s : State) : Nat := if s.rstate = .assemble then 1 else 0

/-- A frame outcome was reported in the last step. -/
def State.outcomes (s : State) : Nat := if s.evt = .none then 0 else 1

end Sys2Proof.Machine
end

