-- ==== Sys2Proof/Certificates/Slice0/Obligations.lean ====
section
/-! DEFINITION. The statements about the model, from the numbered rules of spec/. Times are compared as numbers (`toNat`), so
nothing wraps. `State.TimeOk` is the premise R216 with I-8, `State.Inv` the invariants of R43 (Sys2Proof/Safety.lean). -/

open Sys2Proof Sys2Proof.Machine

/-! ### Reset -/

/-- R210, R212, R214: RESET, in any state, puts every register with a reset value there, empties the event and the display
writes, and ignores the other fields of its word and the clock. `BUF`, `BASE`, `DEADLINE` and `CMD` are unspecified: nothing
is said of them. The inputs to come are untouched. -/
def Obligations.ResetPutsRegistersInResetState : Prop :=
  (∀ s : State, ∃ t, exec .reset s = .next t ∧
    t.rstate = .scan ∧ t.cnt = 0 ∧ t.active = false ∧ t.color = .idle ∧
    (∀ k : Fin 8, t.fwd[k] = 0#8 ∧ t.rev[k] = 0#8) ∧
    t.evt = .none ∧ t.dwr = [] ∧ t.script = s.script) ∧
  (∀ (s : State) (word : BitVec 10) (now : Time) (rest : List Input),
    s.script = .stim word now :: rest → word.getLsbD 9 = true →
    step s = exec .reset { s with script := rest })

/-- The state the model starts in has the reset column of R20 and meets R43. -/
def Obligations.ResetStateMeetsInvariant : Prop :=
  State.reset.rstate = .scan ∧ State.reset.cnt = 0 ∧ State.reset.active = false ∧
  State.reset.color = .idle ∧ (∀ k : Fin 8, State.reset.fwd[k] = 0#8 ∧ State.reset.rev[k] = 0#8) ∧
  State.reset.evt = .none ∧ State.reset.dwr = [] ∧ State.reset.Inv

/-! ### The Frame Reader's operations -/

/-- R102: RX.SCAN.DROP changes nothing at all. -/
def Obligations.ScanDropChangesNothing : Prop :=
  ∀ (b : Byte) (s : State), s.rstate = .scan → b ≠ 0xAA#8 → exec (.rxScanDrop b) s = .next s

/-- R103: RX.SCAN.SYNC. -/
def Obligations.ScanSyncOpensAssembly : Prop :=
  ∀ s : State, s.rstate = .scan → ∃ t, exec .rxScanSync s = .next t ∧
    t.buf[0] = 0xAA#8 ∧ t.rstate = .assemble ∧ t.cnt = 0 ∧
    (∀ i : Fin 10, i ≠ 0 → t.buf[i] = s.buf[i]) ∧ t.base = s.base ∧
    s.SameIndicator t ∧ s.SameDuties t ∧ s.SameOutputs t ∧ s.SameOwn t ∧ t.lastNow = s.lastNow

/-- R104: RX.ASM.FIRST, for any byte (0xAA too) and however late `now` is. -/
def Obligations.AsmFirstRecordsBase : Prop :=
  ∀ (b : Byte) (now : Time) (s : State), s.rstate = .assemble → s.cnt = 0 → s.TimeOk now →
    ∃ t, exec (.rxAsmFirst b now) s = .next t ∧
    t.buf[1] = b ∧ t.base = now ∧ t.cnt = 1 ∧ t.rstate = .assemble ∧
    (∀ i : Fin 10, i ≠ 1 → t.buf[i] = s.buf[i]) ∧
    s.SameIndicator t ∧ s.SameDuties t ∧ s.SameOutputs t ∧ s.SameOwn t ∧ t.lastNow = some now

/-- R105: RX.ASM.MID, for any byte; `BASE` is not moved. -/
def Obligations.AsmMidStoresByte : Prop :=
  ∀ (b : Byte) (s : State), s.rstate = .assemble → 1 ≤ s.cnt.val → s.cnt.val ≤ 7 →
    ∃ t, exec (.rxAsmMid b) s = .next t ∧
    (∀ i : Fin 10, i.val = s.cnt.val + 1 → t.buf[i] = b) ∧
    (∀ i : Fin 10, i.val ≠ s.cnt.val + 1 → t.buf[i] = s.buf[i]) ∧
    t.cnt.val = s.cnt.val + 1 ∧ t.rstate = .assemble ∧ t.base = s.base ∧
    s.SameIndicator t ∧ s.SameDuties t ∧ s.SameOutputs t ∧ s.SameOwn t ∧ t.lastNow = s.lastNow

/-- R106, R190, R191: RX.ASM.LAST. Whatever the verdict the byte is stored, the reader is in `SCAN` with `CNT` = 0 and the
indicator is triggered at `now`. A matching checksum gives `CMD`, the duties of SPLIT, green and EVT_FRAME_OK; another one
gives red and EVT_CHECKSUM_MISMATCH and leaves the duty registers. -/
def Obligations.AsmLastValidatesAndActs : Prop :=
  ∀ (b : Byte) (now : Time) (s : State), s.rstate = .assemble → s.cnt = 8 → s.TimeOk now →
    ∃ t, exec (.rxAsmLast b now) s = .next t ∧
    t.rstate = .scan ∧ t.cnt = 0 ∧ t.base = s.base ∧ t.buf[9] = b ∧
    (∀ i : Fin 10, i ≠ 9 → t.buf[i] = s.buf[i]) ∧
    t.active = true ∧ t.deadline.toNat = now.toNat + 500000 ∧
    s.SameOwn t ∧ t.lastNow = some now ∧
    (s.buf[1] ^^^ s.buf[2] ^^^ s.buf[3] ^^^ s.buf[4] ^^^ s.buf[5] ^^^ s.buf[6] ^^^ s.buf[7] ^^^ s.buf[8] = b →
      t.evt = .frameOk ∧ t.color = .good ∧ t.dwr = s.dwr ++ [.good] ∧
      ∃ cmd : CmdVec, t.cmd = some cmd ∧ ∀ k : Fin 8,
        cmd[k] = s8 (s.buf[k.val + 1]) ∧
        t.fwd[k] = (splitDuty cmd[k]).1 ∧ t.rev[k] = (splitDuty cmd[k]).2) ∧
    (s.buf[1] ^^^ s.buf[2] ^^^ s.buf[3] ^^^ s.buf[4] ^^^ s.buf[5] ^^^ s.buf[6] ^^^ s.buf[7] ^^^ s.buf[8] ≠ b →
      t.evt = .checksumMismatch ∧ t.color = .error ∧ t.dwr = s.dwr ++ [.error] ∧
      t.cmd = s.cmd ∧ s.SameDuties t)

/-- R108, R181, R190: TCHK raises FrameTimeout exactly when the window runs and has been exceeded; otherwise only the
model's record of the clock moves. -/
def Obligations.TchkRaisesTimeoutExactlyWhenExceeded : Prop :=
  ∀ (now : Time) (s : State), s.TimeOk now → ∃ t, exec (.tchk now) s = .next t ∧
    (s.rstate = .assemble ∧ 1 ≤ s.cnt.val ∧ now.toNat - s.base.toNat > 100000 →
      t.rstate = .scan ∧ t.cnt = 0 ∧ t.active = true ∧ t.color = .error ∧
      t.deadline.toNat = now.toNat + 500000 ∧ t.evt = .frameTimeout ∧ t.dwr = s.dwr ++ [.error] ∧
      t.cmd = s.cmd ∧ t.buf = s.buf ∧ t.base = s.base ∧ s.SameDuties t ∧ s.SameOwn t ∧ t.lastNow = some now) ∧
    (¬ (s.rstate = .assemble ∧ 1 ≤ s.cnt.val ∧ now.toNat - s.base.toNat > 100000) →
      t = { s with lastNow := some now })

/-- R112: at `now - BASE` = 100000 a ninth byte with the right checksum completes the frame; one microsecond later the step
reports a time-out and the duty registers keep their values. -/
def Obligations.WindowBoundaryIsStrict : Prop :=
  ∀ (b : Byte) (now : Time) (s : State), s.rstate = .assemble → s.cnt = 8 → s.TimeOk now →
    s.buf[1] ^^^ s.buf[2] ^^^ s.buf[3] ^^^ s.buf[4] ^^^ s.buf[5] ^^^ s.buf[6] ^^^ s.buf[7] ^^^ s.buf[8] = b →
    ∃ t, exec (.stepRx b now) s = .next t ∧
      (now.toNat - s.base.toNat = 100000 → t.evt = .frameOk) ∧
      (now.toNat - s.base.toNat = 100001 → t.evt = .frameTimeout ∧ s.SameDuties t)

/-! ### The Status Indicator -/

/-- R150: TRIGGER, from any state of the indicator and for every colour. -/
def Obligations.TriggerShowsColorAndRestartsHold : Prop :=
  ∀ (c : Color) (now : Time) (s : State), s.TimeOk now → ∃ t, exec (.trigger c now) s = .next t ∧
    t.active = true ∧ t.color = c ∧ t.deadline.toNat = now.toNat + 500000 ∧ t.dwr = s.dwr ++ [c] ∧
    t.evt = s.evt ∧ t.cmd = s.cmd ∧
    s.SameReader t ∧ s.SameDuties t ∧ s.SameOwn t ∧ t.lastNow = some now

/-- R151: POLL expires the indicator exactly when it is active and `now >= DEADLINE`. -/
def Obligations.PollExpiresAtDeadline : Prop :=
  ∀ (now : Time) (s : State), s.TimeOk now → ∃ t, exec (.poll now) s = .next t ∧
    (s.active = true ∧ now.toNat ≥ s.deadline.toNat →
      t.active = false ∧ t.color = .idle ∧ t.deadline = s.deadline ∧ t.dwr = s.dwr ++ [.idle] ∧
      t.evt = s.evt ∧ t.cmd = s.cmd ∧
      s.SameReader t ∧ s.SameDuties t ∧ s.SameOwn t ∧ t.lastNow = some now) ∧
    (¬ (s.active = true ∧ now.toNat ≥ s.deadline.toNat) → t = { s with lastNow := some now })

/-- R156: two triggers with the second inside the hold of the first, with polls at any times `us` between them and `ts`
after them: a poll before `t2 + 500000` leaves the error colour, and a poll from then on shows the idle colour. -/
def Obligations.SecondTriggerRestartsHold : Prop :=
  ∀ (s : State) (t1 t2 now : Time) (us ts : List Time),
    s.TimeOk t1 → t2.toNat < t1.toNat + 500000 →
    (t1 :: us ++ t2 :: ts ++ [now]).Pairwise (fun a b => a.toNat ≤ b.toNat) → now.toNat + 500000 < 2 ^ 64 →
    ∃ s1 s1' s2 s3 s4, exec (.trigger .error t1) s = .next s1 ∧ pollsAt us s1 = .next s1' ∧ s1'.color = .error ∧
      exec (.trigger .error t2) s1' = .next s2 ∧ pollsAt ts s2 = .next s3 ∧ exec (.poll now) s3 = .next s4 ∧
      (now.toNat < t2.toNat + 500000 → s4.color = .error) ∧
      (now.toNat ≥ t2.toNat + 500000 → s4.color = .idle)

/-- R59 d: after a POLL that expired the indicator, a second POLL at the same or a later time changes nothing but the
model's record of the clock. -/
def Obligations.PollAfterExpiryDoesNothing : Prop :=
  ∀ (now now' : Time) (s : State), s.TimeOk now → now.toNat ≤ now'.toNat → now'.toNat + 500000 < 2 ^ 64 →
    s.active = true → now.toNat ≥ s.deadline.toNat →
    ∃ t, exec (.poll now) s = .next t ∧ exec (.poll now') t = .next { t with lastNow := some now' }

/-! ### Duty registers -/

/-- R141: SPLIT on every signed 8-bit value, the result exact; nothing else changes. -/
def Obligations.SplitGivesSaturatedDuties : Prop :=
  ∀ (v : Int) (s : State), -128 ≤ v → v ≤ 127 → ∃ fwd rev : Byte,
    exec (.split v) s = .next { s with fnResult := some (.split fwd rev) } ∧
    (v > 0 → (fwd.toNat : Int) = min (2 * v) 254 ∧ rev = 0#8) ∧
    (v < 0 → fwd = 0#8 ∧ (rev.toNat : Int) = min (2 * (-v)) 254) ∧
    (v = 0 → fwd = 0#8 ∧ rev = 0#8)

/-- R142: the bit-level realisation of SPLIT (a to e) and its laws (f, g, h). -/
def Obligations.SplitArithmeticLaws : Prop :=
  (∀ b : Byte,
    let neg := b.getLsbD 7
    let mag : Byte := if neg then ~~~b + 1#8 else b
    let dbl : BitVec 9 := mag.zeroExtend 9 <<< 1
    let sat : Byte := if 254 < dbl.toNat then 254#8 else dbl.truncate 8
    (neg = true ↔ s8 b < 0) ∧ (b = 0#8 ↔ s8 b = 0) ∧
    mag.toNat ≤ 128 ∧ dbl.toNat = 2 * mag.toNat ∧ (254 < dbl.toNat ↔ dbl.getLsbD 8 = true) ∧
    splitDuty (s8 b) = (if neg then 0#8 else sat, if neg then sat else 0#8)) ∧
  (∀ v : Int, -128 ≤ v → v ≤ 127 →
    ((splitDuty v).1 = 0#8 ∨ (splitDuty v).2 = 0#8) ∧
    (splitDuty v).1.toNat % 2 = 0 ∧ (splitDuty v).2.toNat % 2 = 0 ∧
    (splitDuty v).1.toNat ≤ 254 ∧ (splitDuty v).2.toNat ≤ 254 ∧
    (((splitDuty v).1.toNat + (splitDuty v).2.toNat : Nat) : Int) = min (2 * |v|) 254) ∧
  (∀ v : Int, -127 ≤ v → v ≤ 127 → splitDuty (-v) = ((splitDuty v).2, (splitDuty v).1)) ∧
  (∀ v w : Int, -128 ≤ v → v ≤ w → w ≤ 127 →
    (0 ≤ v → (splitDuty v).1.toNat ≤ (splitDuty w).1.toNat) ∧
    (w ≤ 0 → (splitDuty w).2.toNat ≤ (splitDuty v).2.toNat))

/-- R143: MAP writes all sixteen registers, each channel from its own command alone, and nothing else. -/
def Obligations.MapWritesEveryChannel : Prop :=
  ∀ (cmd : CmdVec) (s : State), (∀ k : Fin 8, -128 ≤ cmd[k] ∧ cmd[k] ≤ 127) →
    ∃ t, exec (.map cmd) s = .next t ∧
    (∀ k : Fin 8,
      (cmd[k] > 0 → (t.fwd[k].toNat : Int) = min (2 * cmd[k]) 254 ∧ t.rev[k] = 0#8) ∧
      (cmd[k] < 0 → t.fwd[k] = 0#8 ∧ (t.rev[k].toNat : Int) = min (2 * (-cmd[k])) 254) ∧
      (cmd[k] = 0 → t.fwd[k] = 0#8 ∧ t.rev[k] = 0#8)) ∧
    s.SameReader t ∧ s.SameIndicator t ∧ s.SameOutputs t ∧ s.SameOwn t ∧ t.lastNow = s.lastNow

/-- R144: the registers after any sequence of MAPs are those of the last one alone; with the same vector twice, those of one
MAP. -/
def Obligations.MapIsHistoryFree : Prop :=
  ∀ (firsts : List CmdVec) (last : CmdVec) (s : State),
    (∀ v ∈ firsts, CmdVecInRange v) → CmdVecInRange last →
    ∃ t u, firsts.foldl (fun o v => andThen o (exec (.map v))) (.next s) = .next t ∧
      exec (.map last) t = .next u ∧ exec (.map last) s = .next u

/-- R191, R224: in a step of the machine the duty registers change only by RESET, or because a frame was accepted in that
step, and then they are the duties of the commands shown in `CMD`. -/
def Obligations.DutiesMoveOnlyOnAcceptedFrame : Prop :=
  ∀ s t : State, step s = .next t → t.fwd ≠ s.fwd ∨ t.rev ≠ s.rev →
    (∃ word now rest, s.script = .stim word now :: rest ∧ word.getLsbD 9 = true) ∨
    (t.evt = .frameOk ∧ ∃ cmd, t.cmd = some cmd ∧ ∀ k : Fin 8,
      t.fwd[k] = (splitDuty cmd[k]).1 ∧ t.rev[k] = (splitDuty cmd[k]).2)

/-! ### The Frame Validator -/

/-- R130: CSUM is the XOR of the eight bytes; bit j is 1 exactly when an odd number of them have bit j set. Nothing else
changes. -/
def Obligations.CsumIsBitwiseParity : Prop :=
  ∀ (p : Payload) (s : State), ∃ c : Byte,
    exec (.csum p) s = .next { s with fnResult := some (.csum c) } ∧
    c = p[0] ^^^ p[1] ^^^ p[2] ^^^ p[3] ^^^ p[4] ^^^ p[5] ^^^ p[6] ^^^ p[7] ∧
    ∀ j : Nat, j < 8 →
      (c.getLsbD j = true ↔ (p.toList.countP fun b => b.getLsbD j) % 2 = 1)

/-- R131, R132: VALIDATE accepts exactly when the XOR of bytes 1 to 8 is byte 9, answers those bytes, and does not look at
byte 0. Nothing else changes. -/
def Obligations.ValidateAcceptsExactlyMatchingChecksum : Prop :=
  ∀ (f : Frame) (s : State), ∃ r : Verdict,
    exec (.validate f) s = .next { s with fnResult := some (.validate r) } ∧
    (f[1] ^^^ f[2] ^^^ f[3] ^^^ f[4] ^^^ f[5] ^^^ f[6] ^^^ f[7] ^^^ f[8] = f[9] →
      r = .ok #v[f[1], f[2], f[3], f[4], f[5], f[6], f[7], f[8]]) ∧
    (f[1] ^^^ f[2] ^^^ f[3] ^^^ f[4] ^^^ f[5] ^^^ f[6] ^^^ f[7] ^^^ f[8] ≠ f[9] → r = .checksumMismatch) ∧
    ∀ b : Byte, exec (.validate (f.set 0 b)) s = exec (.validate f) s

/-- R133 a to e: the laws of the checksum. The XOR of the seven bytes other than `p[i]` is written as the checksum of `p`
with `p[i]` replaced by 0. -/
def Obligations.ChecksumLaws : Prop :=
  (∀ (p : Payload) (σ : Equiv.Perm (Fin 8)), csumOf (Vector.ofFn fun k => p[σ k]) = csumOf p) ∧
  (∀ x : Byte, x ^^^ x = 0#8 ∧ x ^^^ 0#8 = x) ∧
  (∀ (p : Payload) (i : Fin 8), csumOf p ^^^ p[i] = csumOf (p.set i 0#8)) ∧
  (∀ (p : Payload) (i : Fin 8) (d : Byte), csumOf (p.set i (p[i] ^^^ d)) = csumOf p ^^^ d) ∧
  (∀ f : Frame, (∃ p, validateFrame f = .ok p) ↔
    f[1] ^^^ f[2] ^^^ f[3] ^^^ f[4] ^^^ f[5] ^^^ f[6] ^^^ f[7] ^^^ f[8] ^^^ f[9] = 0#8)

/-- R134: a valid frame with exactly one of its bytes 1 to 9 changed does not validate. -/
def Obligations.SingleByteCorruptionIsDetected : Prop :=
  ∀ (f : Frame) (p : Payload), validateFrame f = .ok p →
    ∀ (i : Fin 10) (d : Byte), i ≠ 0 → d ≠ 0#8 → validateFrame (f.set i (f[i] ^^^ d)) = .checksumMismatch

/-- R135: a valid frame changed in its bytes 1 to 9 by differences that XOR to 0 validates, with the changed payload; so does
one with two bytes changed by the same difference. -/
def Obligations.CancellingCorruptionIsAccepted : Prop :=
  ∀ (f : Frame) (p : Payload), validateFrame f = .ok p →
    (∀ g : Frame,
      (f[1] ^^^ g[1]) ^^^ (f[2] ^^^ g[2]) ^^^ (f[3] ^^^ g[3]) ^^^ (f[4] ^^^ g[4]) ^^^ (f[5] ^^^ g[5]) ^^^
        (f[6] ^^^ g[6]) ^^^ (f[7] ^^^ g[7]) ^^^ (f[8] ^^^ g[8]) ^^^ (f[9] ^^^ g[9]) = 0#8 →
      validateFrame g = .ok #v[g[1], g[2], g[3], g[4], g[5], g[6], g[7], g[8]]) ∧
    ∀ (i j : Fin 10) (d : Byte), i ≠ 0 → j ≠ 0 → i ≠ j →
      validateFrame ((f.set i (f[i] ^^^ d)).set j (f[j] ^^^ d)) =
        .ok (payloadOf ((f.set i (f[i] ^^^ d)).set j (f[j] ^^^ d)))

/-! ### The Frame Encoder and signed bytes -/

/-- R160: ENCODE on every Command Vector; nothing else changes. -/
def Obligations.EncodeBuildsFrame : Prop :=
  ∀ (v : CmdVec) (s : State), (∀ k : Fin 8, -128 ≤ v[k] ∧ v[k] ≤ 127) → ∃ f : Frame,
    exec (.encode v) s = .next { s with fnResult := some (.encode f) } ∧
    f[0] = 0xAA#8 ∧
    (∀ k : Fin 8, (0 ≤ v[k] → (f[k.val + 1].toNat : Int) = v[k]) ∧
      (v[k] < 0 → (f[k.val + 1].toNat : Int) = v[k] + 256)) ∧
    f[9] = f[1] ^^^ f[2] ^^^ f[3] ^^^ f[4] ^^^ f[5] ^^^ f[6] ^^^ f[7] ^^^ f[8]

/-- R9: `u8` and `s8` are what R9 says and inverse to each other. -/
def Obligations.SignedByteReadingsAreInverse : Prop :=
  (∀ v : Int, -128 ≤ v → v ≤ 127 →
    (0 ≤ v → ((u8 v).toNat : Int) = v) ∧ (v < 0 → ((u8 v).toNat : Int) = v + 256) ∧ s8 (u8 v) = v) ∧
  (∀ b : Byte, (b.toNat < 128 → s8 b = b.toNat) ∧ (128 ≤ b.toNat → s8 b = (b.toNat : Int) - 256) ∧ u8 (s8 b) = b)

/-- R78, R86: the caller's clamp, and the frame of an eight-token line of integers. -/
def Obligations.LineOfEightTokensIsClampedAndEncoded : Prop :=
  (∀ x : Int, (x < -128 → clampCommand x = -128) ∧ (x > 127 → clampCommand x = 127) ∧
    (-128 ≤ x → x ≤ 127 → clampCommand x = x)) ∧
  (∀ a b c d e f g h : Int, assembleLine [a, b, c, d, e, f, g, h] = .motorsOnly (encodeFrame
    #v[clampCommand a, clampCommand b, clampCommand c, clampCommand d,
       clampCommand e, clampCommand f, clampCommand g, clampCommand h])) ∧
  (∀ l : List Int, l.length ≠ 4 → l.length ≠ 8 → l.length ≠ 12 → assembleLine l = .inputParseError)

/-- R76: the flat bus carries `CMD[k]` in bits 8k+7 : 8k. -/
def Obligations.CommandBusLanes : Prop :=
  ∀ (cmd : CmdVec) (k : Fin 8), (cmdBus cmd).extractLsb' (8 * k.val) 8 = u8 cmd[k]

/-- R161: encoding then validating gives back the commands; and the ten bytes of a frame, presented one a step within the
window to a reader in `SCAN`, at times that meet R216, give EVT_FRAME_OK with `CMD` the commands, the duties of SPLIT and the
good colour. The bytes and times are any; no program is fixed. -/
def Obligations.EncodedFrameIsReceived : Prop :=
  (∀ v : CmdVec, CmdVecInRange v →
    ∃ p, validateFrame (encodeFrame v) = .ok p ∧ ∀ k : Fin 8, s8 p[k] = v[k]) ∧
  (∀ (s : State) (v : CmdVec) (times : Vector Time 10) (rest : List Input),
    CmdVecInRange v → s.rstate = .scan →
    (∀ i j : Fin 10, i ≤ j → times[i].toNat ≤ times[j].toNat) →
    (∀ t, s.lastNow = some t → t.toNat ≤ times[0].toNat) →
    times[9].toNat + 500000 < 2 ^ 64 →
    times[9].toNat - times[1].toNat ≤ 100000 →
    s.script = (List.finRange 10).map (fun i => byteInput (encodeFrame v)[i] times[i]) ++ rest →
    ∃ t : State, Host.Core.run Sys2Proof.core 10 s = .next t ∧
      t.evt = .frameOk ∧ t.cmd = some v ∧
      (∀ k : Fin 8, t.fwd[k] = (splitDuty v[k]).1 ∧ t.rev[k] = (splitDuty v[k]).2) ∧
      t.color = .good ∧ t.deadline.toNat = times[9].toNat + 500000 ∧
      t.rstate = .scan ∧ t.script = rest)

/-! ### The step -/

/-- A step runs the operation of the next input, on the state without that input; a table word placed by `withFetchWord` is
the next input; with no input the model refuses (log 2), and an undecodable input is refused by name. -/
def Obligations.StepRunsDecodedOperation : Prop :=
  (∀ (s : State) (inp : Input) (rest : List Input) (i : Instr), s.script = inp :: rest →
    decodeInput inp = .ok i → step s = exec i { s with script := rest }) ∧
  (∀ (s : State) (nbits w : Nat) (i : Instr), decodeTableWord nbits w = some i →
    step (s.withFetchWord nbits w) = exec i s) ∧
  (∀ s : State, s.script = [] → step s = .refused .noStimulus) ∧
  (∀ (s : State) (inp : Input) (rest : List Input) (e : Reject), s.script = inp :: rest →
    decodeInput inp = .error e → step s = .refused (.undecodable e))

/-- R71: the fields of the stimulus word. -/
def Obligations.StimulusWordFields : Prop :=
  ∀ (word : BitVec 10) (now : Time),
    (word.getLsbD 9 = true → decodeInput (.stim word now) = .ok .reset) ∧
    (word.getLsbD 9 = false → word.getLsbD 8 = false → decodeInput (.stim word now) = .ok (.stepIdle now)) ∧
    (word.getLsbD 9 = false → word.getLsbD 8 = true →
      decodeInput (.stim word now) = .ok (.stepRx (word.extractLsb' 0 8) now))

/-- R170, R72: a step is POLL, then TCHK, then the operation R72 selects on the state TCHK left, each run as an operation of
its own, from cleared outputs. -/
def Obligations.StepIsSequenceOfOperations : Prop :=
  (∀ (now : Time) (s : State),
    exec (.stepIdle now) s =
      andThen (exec (.poll now) { s with evt := .none, dwr := [], cmd := none }) (exec (.tchk now))) ∧
  (∀ (b : Byte) (now : Time) (s : State),
    exec (.stepRx b now) s =
      andThen (exec (.poll now) { s with evt := .none, dwr := [], cmd := none }) fun s1 =>
      andThen (exec (.tchk now) s1) fun s2 =>
      match s2.rstate with
      | .scan => if b = 0xAA#8 then exec .rxScanSync s2 else exec (.rxScanDrop b) s2
      | .assemble =>
        if s2.cnt.val = 0 then exec (.rxAsmFirst b now) s2
        else if s2.cnt.val ≤ 7 then exec (.rxAsmMid b) s2
        else exec (.rxAsmLast b now) s2)

/-- R173: under the premises the step is the reference function, with the clock reading recorded. -/
def Obligations.StepAgreesWithReference : Prop :=
  (∀ (now : Time) (s : State), s.TimeOk now →
    exec (.stepIdle now) s = .next (stepReference { s with lastNow := some now } now none)) ∧
  (∀ (b : Byte) (now : Time) (s : State), s.TimeOk now →
    exec (.stepRx b now) s = .next (stepReference { s with lastNow := some now } now (some b)))

/-- R171: with the window exceeded and a byte in the step, the time-out is taken first and the byte is then handled in
`SCAN`: dropped, or accepted as a new sync byte; it is never stored into the abandoned assembly. -/
def Obligations.TimeoutIsTakenBeforeByte : Prop :=
  ∀ (b : Byte) (now : Time) (s : State), s.TimeOk now →
    s.rstate = .assemble → 1 ≤ s.cnt.val → now.toNat - s.base.toNat > 100000 →
    ∃ t, exec (.stepRx b now) s = .next t ∧
      t.evt = .frameTimeout ∧ t.color = .error ∧ t.cnt = 0 ∧ t.base = s.base ∧ s.SameDuties t ∧
      (∀ i : Fin 10, i ≠ 0 → t.buf[i] = s.buf[i]) ∧
      (b ≠ 0xAA#8 → t.rstate = .scan ∧ t.buf = s.buf) ∧
      (b = 0xAA#8 → t.rstate = .assemble ∧ t.buf[0] = 0xAA#8)

/-- R109: the reader's complete transition table, row by row, from every state that meets the invariant. -/
def Obligations.ReaderTransitionTable : Prop :=
  ∀ (now : Time) (s : State), s.Inv → s.Premises now →
    (∃ t, exec (.stepIdle now) s = .next t ∧
      (s.rstate = .scan → t.rstate = .scan ∧ t.cnt = 0 ∧ t.evt = .none) ∧
      (s.rstate = .assemble → ¬ s.TimedOut now → t.rstate = .assemble ∧ t.cnt = s.cnt ∧ t.evt = .none) ∧
      (s.TimedOut now → t.rstate = .scan ∧ t.cnt = 0 ∧ t.evt = .frameTimeout)) ∧
    (∀ b : Byte, ∃ t, exec (.stepRx b now) s = .next t ∧
      (s.rstate = .scan → b ≠ 0xAA#8 → t.rstate = .scan ∧ t.cnt = 0 ∧ t.evt = .none) ∧
      (s.rstate = .scan → b = 0xAA#8 → t.rstate = .assemble ∧ t.cnt = 0 ∧ t.evt = .none) ∧
      (s.rstate = .assemble → s.cnt = 0 →
        t.rstate = .assemble ∧ t.cnt = 1 ∧ t.base = now ∧ t.evt = .none) ∧
      (s.rstate = .assemble → ¬ s.TimedOut now → 1 ≤ s.cnt.val → s.cnt.val ≤ 7 →
        t.rstate = .assemble ∧ t.cnt.val = s.cnt.val + 1 ∧ t.evt = .none) ∧
      (s.rstate = .assemble → ¬ s.TimedOut now → s.cnt = 8 →
        t.rstate = .scan ∧ t.cnt = 0 ∧
        (s.buf[1] ^^^ s.buf[2] ^^^ s.buf[3] ^^^ s.buf[4] ^^^ s.buf[5] ^^^ s.buf[6] ^^^ s.buf[7] ^^^ s.buf[8] = b →
          t.evt = .frameOk) ∧
        (s.buf[1] ^^^ s.buf[2] ^^^ s.buf[3] ^^^ s.buf[4] ^^^ s.buf[5] ^^^ s.buf[6] ^^^ s.buf[7] ^^^ s.buf[8] ≠ b →
          t.evt = .checksumMismatch)) ∧
      (s.TimedOut now → b ≠ 0xAA#8 → t.rstate = .scan ∧ t.cnt = 0 ∧ t.evt = .frameTimeout) ∧
      (s.TimedOut now → b = 0xAA#8 → t.rstate = .assemble ∧ t.cnt = 0 ∧ t.evt = .frameTimeout))

/-- R154, R172: the indicator's complete transition table for one step, with or without a byte. -/
def Obligations.IndicatorTransitionTable : Prop :=
  ∀ (rx : Option Byte) (now : Time) (s : State), s.TimeOk now →
    ∃ t, (match rx with | none => exec (.stepIdle now) s | some b => exec (.stepRx b now) s) = .next t ∧
    (t.evt = .none → ¬ s.Expires now → s.SameIndicator t ∧ t.dwr = []) ∧
    (t.evt = .none → s.Expires now →
      t.active = false ∧ t.color = .idle ∧ t.deadline = s.deadline ∧ t.dwr = [.idle]) ∧
    (t.evt ≠ .none → t.active = true ∧ t.deadline.toNat = now.toNat + 500000 ∧
      (t.evt = .frameOk → t.color = .good) ∧ (t.evt ≠ .frameOk → t.color = .error) ∧
      (¬ s.Expires now → t.dwr = [t.color]) ∧ (s.Expires now → t.dwr = [.idle, t.color]))

/-- R174: nothing of the last step's outputs carries over. -/
def Obligations.StepOutputsStartEmpty : Prop :=
  ∀ (e : Evt) (c : Option CmdVec) (d : List Color) (b : Byte) (now : Time) (s : State),
    exec (.stepIdle now) { s with evt := e, cmd := c, dwr := d } = exec (.stepIdle now) s ∧
    exec (.stepRx b now) { s with evt := e, cmd := c, dwr := d } = exec (.stepRx b now) s ∧
    exec .reset { s with evt := e, cmd := c, dwr := d } = exec .reset s

/-- R111: with `ASSEMBLE` and `CNT` = 0 any number of steps without a byte, at any times, leave the reader waiting and report
nothing; the next byte, whatever it is, becomes `p0` and opens the window. -/
def Obligations.LoneSyncNeverTimesOut : Prop :=
  ∀ (times : List Time) (last : Time) (b : Byte) (s : State),
    s.rstate = .assemble → s.cnt = 0 → s.evt = .none →
    (times ++ [last]).Pairwise (fun x y => x.toNat ≤ y.toNat) → last.toNat + 500000 < 2 ^ 64 →
    (∀ t x, s.lastNow = some t → x ∈ times ++ [last] → t.toNat ≤ x.toNat) →
    s.script = times.map idleInput ++ [byteInput b last] →
    ∃ t u : State, Host.Core.run Sys2Proof.core times.length s = .next t ∧
      t.rstate = .assemble ∧ t.cnt = 0 ∧ t.evt = .none ∧
      step t = .next u ∧ u.rstate = .assemble ∧ u.cnt = 1 ∧ u.buf[1] = b ∧ u.base = last ∧ u.evt = .none

/-- R115: outcomes and open assemblies are paid for by accepted sync bytes, one for one: in every step the outcomes
reported plus the assemblies open after it are the assemblies open before it plus the sync bytes accepted in it. -/
def Obligations.OneOutcomePerAcceptedSync : Prop :=
  ∀ (b : Byte) (now : Time) (s : State), s.TimeOk now →
    (∃ t, exec (.stepIdle now) s = .next t ∧ t.outcomes + t.openFrames = s.openFrames) ∧
    (∃ t, exec (.stepRx b now) s = .next t ∧
      (b = 0xAA#8 ∧ (s.rstate = .scan ∨ s.TimedOut now) →
        t.outcomes + t.openFrames = s.openFrames + 1) ∧
      (¬ (b = 0xAA#8 ∧ (s.rstate = .scan ∨ s.TimedOut now)) →
        t.outcomes + t.openFrames = s.openFrames))

/-- R28: in a step of the machine `BASE` changes only by RESET, or because the first byte after a sync byte was taken. -/
def Obligations.BaseMovesOnlyOnFirstByte : Prop :=
  ∀ s t : State, step s = .next t → t.base ≠ s.base →
    ∃ word now rest, s.script = .stim word now :: rest ∧
      (word.getLsbD 9 = true ∨
        (word.getLsbD 8 = true ∧ s.rstate = .assemble ∧ s.cnt = 0 ∧
          t.base = now ∧ t.cnt = 1 ∧ t.buf[1] = word.extractLsb' 0 8))

/-! ### Invariants, liveness, what has no meaning -/

/-- R43: every step keeps the invariants I-1 to I-8 (and I-9 as far as one state can say it). -/
def Obligations.EveryStepKeepsInvariant : Prop :=
  ∀ s t : State, s.Inv → step s = .next t → t.Inv

/-- R114, R195: from every state that meets the invariant, every step the environment may give has a next state, in which
the input has been consumed. -/
def Obligations.BlockNeverStops : Prop :=
  ∀ (s : State) (word : BitVec 10) (now : Time) (rest : List Input), s.Inv →
    s.script = .stim word now :: rest → (word.getLsbD 9 = false → s.Premises now) →
    ∃ t, step s = .next t ∧ t.script = rest

/-- R22, R28, R42, R213, U10: what has no meaning has no effect. From two states that agree on everything else, a step gives
states that agree again, or the same refusal. -/
def Obligations.MeaninglessRegistersHaveNoEffect : Prop :=
  ∀ s t : State, s.Agree t →
    (∀ s', step s = .next s' → ∃ t', step t = .next t' ∧ s'.Agree t') ∧
    (∀ r, step s = .refused r → step t = .refused r)

/-! ### Encodings -/

/-- For every operation with its operands in range: the decoder reads its word back, and what the port can carry is carried
by a stimulus word. -/
def Obligations.DecodeReadsEncodeBack : Prop :=
  (∀ i : Instr, WellFormed i → decode (encode i) = .ok i) ∧
  (∀ (i : Instr) (inp : Input), stimOf i = some inp → decodeInput inp = .ok i)

/-- Words written out from the table's encodings decode to their operations. The clauses on `decodeTableWord 16` rest on the
model's choice of log 10 (DESIGN CHOICE): a two-byte word is the port's stimulus word, and `now` is 0 where the word has no
bits for it. R71 gives the ten bits of the word and no value of `now`. -/
def Obligations.WrittenOutWordsDecode : Prop :=
  decodeTableWord 16 0b1000000000 = some .reset ∧
  decodeTableWord 16 0b1110101010 = some .reset ∧
  decodeTableWord 16 0b0000000000 = some (.stepIdle 0#64) ∧
  decodeTableWord 16 0b0110101010 = some (.stepRx 0xAA#8 0#64) ∧
  decode ⟨.rxScanSync, 0b0110101010, 0#64⟩ = .ok .rxScanSync ∧
  decode ⟨.rxAsmFirst, 0b0100001010, 2000#64⟩ = .ok (.rxAsmFirst 0x0A#8 2000#64) ∧
  decode ⟨.split, 0b11000000, 0#64⟩ = .ok (.split (-64)) ∧
  decode ⟨.trigger, 0b10, 7#64⟩ = .ok (.trigger .error 7#64) ∧
  decode ⟨.encode, 0xAA0AEC1ED832C446B020, 0#64⟩ = .ok (.encode #v[10, -20, 30, -40, 50, -60, 70, -80])

/-! ### Where the model refuses -/

/-- U5 (log 5): every operation with the operand `now` is refused when that breaks P-2, or P-1 against the last step's clock
or against `BASE` while the window runs. -/
def Obligations.BrokenClockPremiseIsRefused : Prop :=
  ∀ (b : Byte) (c : Color) (now : Time) (s : State) (i : Instr),
    i ∈ [Instr.stepIdle now, .stepRx b now, .poll now, .tchk now, .trigger c now] ∨
      (i = .rxAsmFirst b now ∧ s.rstate = .assemble ∧ s.cnt = 0) ∨
      (i = .rxAsmLast b now ∧ s.rstate = .assemble ∧ s.cnt = 8) →
    (2 ^ 64 ≤ now.toNat + 500000 → exec i s = .refused .clockOverflow) ∧
    (now.toNat + 500000 < 2 ^ 64 →
      (∃ t, s.lastNow = some t ∧ now.toNat < t.toNat) ∨
        (s.rstate = .assemble ∧ 1 ≤ s.cnt.val ∧ now.toNat < s.base.toNat) →
      exec i s = .refused .clockWentBack)

/-- R101 (log 8): an RX operation applied by itself where R72 does not select it is refused by name. -/
def Obligations.UnselectedRxOperationIsRefused : Prop :=
  ∀ (b : Byte) (now : Time) (s : State),
    (s.rstate = .assemble ∨ b = 0xAA#8 → exec (.rxScanDrop b) s = .refused (.notSelected .rxScanDrop)) ∧
    (s.rstate = .assemble → exec .rxScanSync s = .refused (.notSelected .rxScanSync)) ∧
    (s.rstate = .scan ∨ 1 ≤ s.cnt.val → exec (.rxAsmFirst b now) s = .refused (.notSelected .rxAsmFirst)) ∧
    (s.rstate = .scan ∨ s.cnt = 0 ∨ s.cnt = 8 → exec (.rxAsmMid b) s = .refused (.notSelected .rxAsmMid)) ∧
    (s.rstate = .scan ∨ s.cnt.val ≤ 7 → exec (.rxAsmLast b now) s = .refused (.notSelected .rxAsmLast))

/-- U2, R141, R160 d (log 9): a command outside [-128, 127] is outside the domain of SPLIT, MAP and ENCODE. -/
def Obligations.CommandOutsideDomainIsRefused : Prop :=
  ∀ (v : Int) (cmd : CmdVec) (s : State),
    (v < -128 ∨ 127 < v → exec (.split v) s = .refused (.outsideDomain .split)) ∧
    ((∃ k : Fin 8, cmd[k] < -128 ∨ 127 < cmd[k]) →
      exec (.map cmd) s = .refused (.outsideDomain .map) ∧
      exec (.encode cmd) s = .refused (.outsideDomain .encode))
end

