-- ==== Sys2Proof/Laws/Values.lean ====
section
/-! SUPPORT. The functions on values: signed bytes, the checksum, the validator, the duty splitter, the encoder. -/

namespace Sys2Proof.Machine

/-! ### Signed bytes -/

theorem s8_range (b : Byte) : CmdInRange (s8 b) := by
  have := b.isLt
  unfold s8 CmdInRange Config.cmdMin Config.cmdMax
  split <;> omega

theorem u8_toNat_of_nonneg {v : Int} (h : CmdInRange v) (h0 : 0 ≤ v) : ((u8 v).toNat : Int) = v := by
  obtain ⟨_, hmax⟩ := h
  unfold Config.cmdMax at hmax
  simp only [u8, if_pos h0, BitVec.toNat_ofNat]
  omega

theorem u8_toNat_of_neg {v : Int} (h : CmdInRange v) (h0 : v < 0) : ((u8 v).toNat : Int) = v + 256 := by
  obtain ⟨hmin, _⟩ := h
  unfold Config.cmdMin at hmin
  simp only [u8, if_neg (not_le.mpr h0), BitVec.toNat_ofNat]
  omega

theorem s8_u8 {v : Int} (h : CmdInRange v) : s8 (u8 v) = v := by
  have hr := h
  obtain ⟨hmin, hmax⟩ := hr
  unfold Config.cmdMin at hmin
  unfold Config.cmdMax at hmax
  rcases lt_or_ge v 0 with h0 | h0
  · have := u8_toNat_of_neg h h0
    unfold s8
    split <;> omega
  · have := u8_toNat_of_nonneg h h0
    unfold s8
    split <;> omega

/-- The two readings of a byte (R9). -/
theorem s8_cases (b : Byte) :
    (s8 b < 0 ∧ s8 b = (b.toNat : Int) - 256) ∨ (0 ≤ s8 b ∧ s8 b = (b.toNat : Int)) := by
  have := b.isLt
  unfold s8
  split <;> omega

theorem u8_s8 (b : Byte) : u8 (s8 b) = b := by
  apply BitVec.eq_of_toNat_eq
  rcases s8_cases b with ⟨h0, h⟩ | ⟨h0, h⟩
  · have := u8_toNat_of_neg (s8_range b) h0
    omega
  · have := u8_toNat_of_nonneg (s8_range b) h0
    omega

/-! ### Lanes -/

@[simp] theorem commandsOf_getElem (p : Payload) (k : Nat) (h : k < 8) : (commandsOf p)[k] = s8 p[k] := by
  interval_cases k <;> rfl

@[simp] theorem payloadOfCommands_getElem (v : CmdVec) (k : Nat) (h : k < 8) :
    (payloadOfCommands v)[k] = u8 v[k] := by
  interval_cases k <;> rfl

@[simp] theorem payloadOf_getElem (f : Frame) (k : Nat) (h : k < 8) : (payloadOf f)[k] = f[k + 1] := by
  interval_cases k <;> rfl

@[simp] theorem forwardDuties_getElem (cmd : CmdVec) (k : Nat) (h : k < 8) :
    (forwardDuties cmd)[k] = (splitDuty cmd[k]).1 := by
  interval_cases k <;> rfl

@[simp] theorem reverseDuties_getElem (cmd : CmdVec) (k : Nat) (h : k < 8) :
    (reverseDuties cmd)[k] = (splitDuty cmd[k]).2 := by
  interval_cases k <;> rfl

theorem commandsOf_payloadOfCommands {v : CmdVec} (h : CmdVecInRange v) :
    commandsOf (payloadOfCommands v) = v := by
  ext k hk
  simpa using s8_u8 (h ⟨k, hk⟩)

/-! ### Encoder and validator -/

@[simp] theorem payloadOf_encodeFrame (v : CmdVec) : payloadOf (encodeFrame v) = payloadOfCommands v := rfl

@[simp] theorem encodeFrame_sync (v : CmdVec) : (encodeFrame v)[0] = Config.sync := rfl

@[simp] theorem encodeFrame_checksum (v : CmdVec) : (encodeFrame v)[9] = csumOf (payloadOfCommands v) := rfl

theorem validateFrame_eq_ok {f : Frame} {p : Payload} :
    validateFrame f = .ok p ↔ csumOf (payloadOf f) = f[9] ∧ p = payloadOf f := by
  unfold validateFrame
  split <;> simp_all [eq_comm]

theorem validateFrame_eq_mismatch {f : Frame} :
    validateFrame f = .checksumMismatch ↔ csumOf (payloadOf f) ≠ f[9] := by
  unfold validateFrame
  split <;> simp_all

@[simp] theorem validateFrame_encodeFrame (v : CmdVec) :
    validateFrame (encodeFrame v) = .ok (payloadOfCommands v) :=
  validateFrame_eq_ok.mpr ⟨rfl, rfl⟩

/-! ### Duty splitter -/

theorem dutyOf_toNat (m : Nat) : (dutyOf m).toNat = min (2 * m) 254 := by
  unfold dutyOf Config.dutyScale Config.dutyMax
  rw [BitVec.toNat_ofNat]
  omega

theorem splitDuty_of_pos {v : Int} (h : 0 < v) : splitDuty v = (dutyOf v.toNat, 0#8) := if_pos h

theorem splitDuty_of_neg {v : Int} (h : v < 0) : splitDuty v = (0#8, dutyOf (-v).toNat) := by
  unfold splitDuty
  rw [if_neg (by omega), if_pos h]

@[simp] theorem splitDuty_zero : splitDuty 0 = (0#8, 0#8) := rfl

/-- Everything SPLIT can answer (R141). -/
theorem splitDuty_cases (v : Int) :
    (0 < v ∧ (splitDuty v).1.toNat = min (2 * v.toNat) 254 ∧ (splitDuty v).2 = 0#8) ∨
    (v < 0 ∧ (splitDuty v).1 = 0#8 ∧ (splitDuty v).2.toNat = min (2 * (-v).toNat) 254) ∨
    (v = 0 ∧ (splitDuty v).1 = 0#8 ∧ (splitDuty v).2 = 0#8) := by
  rcases lt_trichotomy v 0 with h | h | h
  · exact .inr (.inl ⟨h, by rw [splitDuty_of_neg h], by rw [splitDuty_of_neg h, dutyOf_toNat]⟩)
  · subst h
    exact .inr (.inr ⟨rfl, rfl, rfl⟩)
  · exact .inl ⟨h, by rw [splitDuty_of_pos h, dutyOf_toNat], by rw [splitDuty_of_pos h]⟩

theorem splitDuty_one_direction (v : Int) : (splitDuty v).1 = 0#8 ∨ (splitDuty v).2 = 0#8 := by
  rcases splitDuty_cases v with h | h | h <;> simp [h]

theorem splitDuty_fwd_even (v : Int) : (splitDuty v).1.toNat % 2 = 0 ∧ (splitDuty v).1.toNat ≤ 254 := by
  rcases splitDuty_cases v with ⟨_, h, _⟩ | ⟨_, h, _⟩ | ⟨_, h, _⟩ <;> rw [h] <;> first | omega | decide

theorem splitDuty_rev_even (v : Int) : (splitDuty v).2.toNat % 2 = 0 ∧ (splitDuty v).2.toNat ≤ 254 := by
  rcases splitDuty_cases v with ⟨_, _, h⟩ | ⟨_, _, h⟩ | ⟨_, _, h⟩ <;> rw [h] <;> first | omega | decide

end Sys2Proof.Machine
end

