-- ==== Sys2Proof/Laws/Codec.lean ====
section
/-! SUPPORT. Bytes of a word and words of bytes; what the decoder does with a word of a row whose width and fixed bits fit. -/

namespace Sys2Proof

/-! ### Bytes of a word -/

theorem byteAt_push_zero (n : Nat) (b : Byte) : byteAt (n * 256 + b.toNat) 0 = b := by
  have := b.isLt
  apply BitVec.eq_of_toNat_eq
  unfold byteAt
  rw [BitVec.toNat_ofNat]
  simp
  omega

theorem byteAt_push_succ (n k : Nat) (b : Byte) : byteAt (n * 256 + b.toNat) (k + 1) = byteAt n k := by
  have := b.isLt
  have h : (n * 256 + b.toNat) / 256 = n := by omega
  unfold byteAt
  rw [Nat.mul_add, Nat.add_comm (8 * k), Nat.shiftRight_add, Nat.shiftRight_eq_div_pow _ 8]
  norm_num [h]

theorem bitsOfBytes_append (l r : List Byte) :
    bitsOfBytes (l ++ r) = bitsOfBytes l * 256 ^ r.length + bitsOfBytes r := by
  have h : ∀ (r : List Byte) (n : Nat), r.foldl (fun acc b => acc * 256 + b.toNat) n =
      n * 256 ^ r.length + r.foldl (fun acc b => acc * 256 + b.toNat) 0 := by
    intro r
    induction r with
    | nil => simp
    | cons b r ih =>
      intro n
      rw [List.foldl_cons, List.foldl_cons, ih, ih (0 * 256 + b.toNat), List.length_cons]
      ring
  unfold bitsOfBytes
  rw [List.foldl_append, h]

theorem bitsOfBytes_lt (bs : List Byte) : bitsOfBytes bs < 256 ^ bs.length := by
  induction bs using List.reverseRecOn with
  | nil => simp [bitsOfBytes]
  | append_singleton l b ih =>
    have := b.isLt
    have hb : bitsOfBytes [b] = b.toNat := by simp [bitsOfBytes]
    rw [bitsOfBytes_append, hb, List.length_append, List.length_singleton, pow_one, pow_succ]
    omega

theorem payload_literal (p : Payload) : ∃ a b c d e f g h : Byte, p = #v[a, b, c, d, e, f, g, h] := by
  refine ⟨p[0], p[1], p[2], p[3], p[4], p[5], p[6], p[7], ?_⟩
  ext i hi
  interval_cases i <;> rfl

theorem frame_literal (f : Frame) :
    ∃ z a b c d e f' g h k : Byte, f = #v[z, a, b, c, d, e, f', g, h, k] := by
  refine ⟨f[0], f[1], f[2], f[3], f[4], f[5], f[6], f[7], f[8], f[9], ?_⟩
  ext i hi
  interval_cases i <;> rfl

@[simp] theorem payloadOfBits_bitsOfBytes (p : Payload) : payloadOfBits (bitsOfBytes p.toList) = p := by
  obtain ⟨a, b, c, d, e, f, g, h, rfl⟩ := payload_literal p
  simp only [payloadOfBits, bitsOfBytes, Vector.toList_mk, List.foldl_cons, List.foldl_nil,
    byteAt_push_zero, byteAt_push_succ]

@[simp] theorem frameOfBits_bitsOfBytes (f : Frame) : frameOfBits (bitsOfBytes f.toList) = f := by
  obtain ⟨z, a, b, c, d, e, f', g, h, k, rfl⟩ := frame_literal f
  simp only [frameOfBits, bitsOfBytes, Vector.toList_mk, List.foldl_cons, List.foldl_nil,
    byteAt_push_zero, byteAt_push_succ]

theorem payload_bits_lt (p : Payload) : bitsOfBytes p.toList < 2 ^ 64 := by
  simpa using bitsOfBytes_lt p.toList

theorem frame_bits_lt (f : Frame) : bitsOfBytes f.toList < 2 ^ 80 := by
  simpa using bitsOfBytes_lt f.toList

/-! ### Words of the rows -/

/-- The byte of a word with bits 9:8 = 01. -/
@[simp] theorem byteAt_rx (b : Byte) : byteAt (0x100 + b.toNat) 0 = b := byteAt_push_zero 1 b

/-- A word of a row whose width and fixed bits fit. -/
theorem decode_of_fits {row : Row} {bits : Nat} {now : Time} (hw : bits < 2 ^ row.spec.width)
    (hf : bits &&& row.spec.mask = row.spec.pattern) :
    decode ⟨row, bits, now⟩ = decodeOperands row bits now := by
  unfold decode
  simp only
  rw [if_neg (by omega), if_neg (not_not.mpr hf)]

set_option maxRecDepth 4000 in
theorem rx_fixed_bits : ∀ n : Fin 256, (0x100 + n.val) &&& 0x300 = 0x100 := by decide

/-- A word with bits 9:8 = 01 in a row that fixes those. -/
theorem decode_rx {row : Row} (h : row.spec = ⟨10, 0x300, 0x100⟩) (b : Byte) (now : Time) :
    decode ⟨row, 0x100 + b.toNat, now⟩ = decodeOperands row (0x100 + b.toNat) now := by
  have hb := b.isLt
  apply decode_of_fits <;> rw [h]
  · simp only
    omega
  · exact rx_fixed_bits b.toFin

/-- A word of a row without fixed bits. -/
theorem decode_free {row : Row} {w : Nat} (h : row.spec = ⟨w, 0, 0⟩) {bits : Nat} (hw : bits < 2 ^ w) (now : Time) :
    decode ⟨row, bits, now⟩ = decodeOperands row bits now := by
  apply decode_of_fits <;> rw [h]
  · exact hw
  · exact Nat.and_zero bits

/-- The first byte of a frame is the high byte of its word. -/
theorem frame_high_byte (f : Frame) :
    bitsOfBytes f.toList &&& 0xFF000000000000000000 = f[0].toNat <<< 72 := by
  obtain ⟨z, a, b, c, d, e, f', g, h, k, rfl⟩ := frame_literal f
  have hsplit := bitsOfBytes_append [z] [a, b, c, d, e, f', g, h, k]
  have hr := bitsOfBytes_lt [a, b, c, d, e, f', g, h, k]
  have hz := z.isLt
  simp only [List.length_cons, List.length_nil] at hr hsplit
  have hz' : bitsOfBytes [z] = z.toNat := by simp [bitsOfBytes]
  rw [hz'] at hsplit
  rw [List.singleton_append] at hsplit
  simp only [Vector.toList_mk]
  rw [hsplit]
  generalize bitsOfBytes [a, b, c, d, e, f', g, h, k] = r at *
  simp only [Vector.getElem_mk, List.getElem_toArray, List.getElem_cons_zero]
  generalize z.toNat = n at *
  have hr' : r < 2 ^ 72 := by simpa using hr
  have e1 : n * 256 ^ (0 + 1 + 1 + 1 + 1 + 1 + 1 + 1 + 1 + 1) + r = n <<< 72 ||| r := by
    rw [← Nat.shiftLeft_add_eq_or_of_lt hr', Nat.shiftLeft_eq]
    norm_num
  have e2 : (0xFF000000000000000000 : Nat) = (2 ^ 8 - 1) <<< 72 := by norm_num [Nat.shiftLeft_eq]
  rw [e1, e2]
  apply Nat.eq_of_testBit_eq
  intro i
  simp only [Nat.testBit_and, Nat.testBit_or, Nat.testBit_shiftLeft, Nat.testBit_two_pow_sub_one]
  by_cases hi : 72 ≤ i
  · have : r.testBit i = false := Nat.testBit_lt_two_pow (lt_of_lt_of_le hr' (Nat.pow_le_pow_right (by norm_num) hi))
    by_cases h8 : i - 72 < 8
    · simp [hi, h8, this]
    · have : n.testBit (i - 72) = false :=
        Nat.testBit_lt_two_pow (lt_of_lt_of_le hz (Nat.pow_le_pow_right (by norm_num) (by omega)))
      simp [h8, this]
  · simp [hi]

end Sys2Proof
end

