-- ==== Sys2Proof/Laws/State.lean ====
section
/-! SUPPORT. For each update of the state, what it does to each field, by `rfl`, so that no proof unfolds a record update. -/

namespace Sys2Proof.Machine

/-! ### `setReader` -/

@[simp] theorem State.setReader_rstate (s : State) (r : RState) (c : Fin 9) :
    (s.setReader r c).rstate = r := rfl
@[simp] theorem State.setReader_cnt (s : State) (r : RState) (c : Fin 9) :
    (s.setReader r c).cnt = c := rfl
@[simp] theorem State.setReader_buf (s : State) (r : RState) (c : Fin 9) :
    (s.setReader r c).buf = s.buf := rfl
@[simp] theorem State.setReader_base (s : State) (r : RState) (c : Fin 9) :
    (s.setReader r c).base = s.base := rfl
@[simp] theorem State.setReader_active (s : State) (r : RState) (c : Fin 9) :
    (s.setReader r c).active = s.active := rfl
@[simp] theorem State.setReader_color (s : State) (r : RState) (c : Fin 9) :
    (s.setReader r c).color = s.color := rfl
@[simp] theorem State.setReader_deadline (s : State) (r : RState) (c : Fin 9) :
    (s.setReader r c).deadline = s.deadline := rfl
@[simp] theorem State.setReader_fwd (s : State) (r : RState) (c : Fin 9) :
    (s.setReader r c).fwd = s.fwd := rfl
@[simp] theorem State.setReader_rev (s : State) (r : RState) (c : Fin 9) :
    (s.setReader r c).rev = s.rev := rfl
@[simp] theorem State.setReader_evt (s : State) (r : RState) (c : Fin 9) :
    (s.setReader r c).evt = s.evt := rfl
@[simp] theorem State.setReader_cmd (s : State) (r : RState) (c : Fin 9) :
    (s.setReader r c).cmd = s.cmd := rfl
@[simp] theorem State.setReader_dwr (s : State) (r : RState) (c : Fin 9) :
    (s.setReader r c).dwr = s.dwr := rfl
@[simp] theorem State.setReader_fnResult (s : State) (r : RState) (c : Fin 9) :
    (s.setReader r c).fnResult = s.fnResult := rfl
@[simp] theorem State.setReader_lastNow (s : State) (r : RState) (c : Fin 9) :
    (s.setReader r c).lastNow = s.lastNow := rfl
@[simp] theorem State.setReader_freeIdx (s : State) (r : RState) (c : Fin 9) :
    (s.setReader r c).freeIdx = s.freeIdx := rfl
@[simp] theorem State.setReader_script (s : State) (r : RState) (c : Fin 9) :
    (s.setReader r c).script = s.script := rfl

/-! ### `storeByte` -/

@[simp] theorem State.storeByte_rstate (s : State) (b : Byte) :
    (s.storeByte b).rstate = s.rstate := rfl
@[simp] theorem State.storeByte_cnt (s : State) (b : Byte) :
    (s.storeByte b).cnt = s.cnt := rfl
@[simp] theorem State.storeByte_buf (s : State) (b : Byte) :
    (s.storeByte b).buf = s.buf.set (s.cnt.val + 1) b (by have := s.cnt.isLt; omega) := rfl
@[simp] theorem State.storeByte_base (s : State) (b : Byte) :
    (s.storeByte b).base = s.base := rfl
@[simp] theorem State.storeByte_active (s : State) (b : Byte) :
    (s.storeByte b).active = s.active := rfl
@[simp] theorem State.storeByte_color (s : State) (b : Byte) :
    (s.storeByte b).color = s.color := rfl
@[simp] theorem State.storeByte_deadline (s : State) (b : Byte) :
    (s.storeByte b).deadline = s.deadline := rfl
@[simp] theorem State.storeByte_fwd (s : State) (b : Byte) :
    (s.storeByte b).fwd = s.fwd := rfl
@[simp] theorem State.storeByte_rev (s : State) (b : Byte) :
    (s.storeByte b).rev = s.rev := rfl
@[simp] theorem State.storeByte_evt (s : State) (b : Byte) :
    (s.storeByte b).evt = s.evt := rfl
@[simp] theorem State.storeByte_cmd (s : State) (b : Byte) :
    (s.storeByte b).cmd = s.cmd := rfl
@[simp] theorem State.storeByte_dwr (s : State) (b : Byte) :
    (s.storeByte b).dwr = s.dwr := rfl
@[simp] theorem State.storeByte_fnResult (s : State) (b : Byte) :
    (s.storeByte b).fnResult = s.fnResult := rfl
@[simp] theorem State.storeByte_lastNow (s : State) (b : Byte) :
    (s.storeByte b).lastNow = s.lastNow := rfl
@[simp] theorem State.storeByte_freeIdx (s : State) (b : Byte) :
    (s.storeByte b).freeIdx = s.freeIdx := rfl
@[simp] theorem State.storeByte_script (s : State) (b : Byte) :
    (s.storeByte b).script = s.script := rfl

/-! ### `emit` -/

@[simp] theorem State.emit_rstate (s : State) (c : Color) :
    (s.emit c).rstate = s.rstate := rfl
@[simp] theorem State.emit_cnt (s : State) (c : Color) :
    (s.emit c).cnt = s.cnt := rfl
@[simp] theorem State.emit_buf (s : State) (c : Color) :
    (s.emit c).buf = s.buf := rfl
@[simp] theorem State.emit_base (s : State) (c : Color) :
    (s.emit c).base = s.base := rfl
@[simp] theorem State.emit_active (s : State) (c : Color) :
    (s.emit c).active = s.active := rfl
@[simp] theorem State.emit_color (s : State) (c : Color) :
    (s.emit c).color = s.color := rfl
@[simp] theorem State.emit_deadline (s : State) (c : Color) :
    (s.emit c).deadline = s.deadline := rfl
@[simp] theorem State.emit_fwd (s : State) (c : Color) :
    (s.emit c).fwd = s.fwd := rfl
@[simp] theorem State.emit_rev (s : State) (c : Color) :
    (s.emit c).rev = s.rev := rfl
@[simp] theorem State.emit_evt (s : State) (c : Color) :
    (s.emit c).evt = s.evt := rfl
@[simp] theorem State.emit_cmd (s : State) (c : Color) :
    (s.emit c).cmd = s.cmd := rfl
@[simp] theorem State.emit_dwr (s : State) (c : Color) :
    (s.emit c).dwr = s.dwr ++ [c] := rfl
@[simp] theorem State.emit_fnResult (s : State) (c : Color) :
    (s.emit c).fnResult = s.fnResult := rfl
@[simp] theorem State.emit_lastNow (s : State) (c : Color) :
    (s.emit c).lastNow = s.lastNow := rfl
@[simp] theorem State.emit_freeIdx (s : State) (c : Color) :
    (s.emit c).freeIdx = s.freeIdx := rfl
@[simp] theorem State.emit_script (s : State) (c : Color) :
    (s.emit c).script = s.script := rfl

/-! ### `setEvt` -/

@[simp] theorem State.setEvt_rstate (s : State) (e : Evt) :
    (s.setEvt e).rstate = s.rstate := rfl
@[simp] theorem State.setEvt_cnt (s : State) (e : Evt) :
    (s.setEvt e).cnt = s.cnt := rfl
@[simp] theorem State.setEvt_buf (s : State) (e : Evt) :
    (s.setEvt e).buf = s.buf := rfl
@[simp] theorem State.setEvt_base (s : State) (e : Evt) :
    (s.setEvt e).base = s.base := rfl
@[simp] theorem State.setEvt_active (s : State) (e : Evt) :
    (s.setEvt e).active = s.active := rfl
@[simp] theorem State.setEvt_color (s : State) (e : Evt) :
    (s.setEvt e).color = s.color := rfl
@[simp] theorem State.setEvt_deadline (s : State) (e : Evt) :
    (s.setEvt e).deadline = s.deadline := rfl
@[simp] theorem State.setEvt_fwd (s : State) (e : Evt) :
    (s.setEvt e).fwd = s.fwd := rfl
@[simp] theorem State.setEvt_rev (s : State) (e : Evt) :
    (s.setEvt e).rev = s.rev := rfl
@[simp] theorem State.setEvt_evt (s : State) (e : Evt) :
    (s.setEvt e).evt = e := rfl
@[simp] theorem State.setEvt_cmd (s : State) (e : Evt) :
    (s.setEvt e).cmd = s.cmd := rfl
@[simp] theorem State.setEvt_dwr (s : State) (e : Evt) :
    (s.setEvt e).dwr = s.dwr := rfl
@[simp] theorem State.setEvt_fnResult (s : State) (e : Evt) :
    (s.setEvt e).fnResult = s.fnResult := rfl
@[simp] theorem State.setEvt_lastNow (s : State) (e : Evt) :
    (s.setEvt e).lastNow = s.lastNow := rfl
@[simp] theorem State.setEvt_freeIdx (s : State) (e : Evt) :
    (s.setEvt e).freeIdx = s.freeIdx := rfl
@[simp] theorem State.setEvt_script (s : State) (e : Evt) :
    (s.setEvt e).script = s.script := rfl

/-! ### `beginStep` -/

@[simp] theorem State.beginStep_rstate (s : State) :
    (s.beginStep).rstate = s.rstate := rfl
@[simp] theorem State.beginStep_cnt (s : State) :
    (s.beginStep).cnt = s.cnt := rfl
@[simp] theorem State.beginStep_buf (s : State) :
    (s.beginStep).buf = s.buf := rfl
@[simp] theorem State.beginStep_base (s : State) :
    (s.beginStep).base = s.base := rfl
@[simp] theorem State.beginStep_active (s : State) :
    (s.beginStep).active = s.active := rfl
@[simp] theorem State.beginStep_color (s : State) :
    (s.beginStep).color = s.color := rfl
@[simp] theorem State.beginStep_deadline (s : State) :
    (s.beginStep).deadline = s.deadline := rfl
@[simp] theorem State.beginStep_fwd (s : State) :
    (s.beginStep).fwd = s.fwd := rfl
@[simp] theorem State.beginStep_rev (s : State) :
    (s.beginStep).rev = s.rev := rfl
@[simp] theorem State.beginStep_evt (s : State) :
    (s.beginStep).evt = .none := rfl
@[simp] theorem State.beginStep_cmd (s : State) :
    (s.beginStep).cmd = none := rfl
@[simp] theorem State.beginStep_dwr (s : State) :
    (s.beginStep).dwr = [] := rfl
@[simp] theorem State.beginStep_fnResult (s : State) :
    (s.beginStep).fnResult = s.fnResult := rfl
@[simp] theorem State.beginStep_lastNow (s : State) :
    (s.beginStep).lastNow = s.lastNow := rfl
@[simp] theorem State.beginStep_freeIdx (s : State) :
    (s.beginStep).freeIdx = s.freeIdx := rfl
@[simp] theorem State.beginStep_script (s : State) :
    (s.beginStep).script = s.script := rfl

/-! ### `setResult` -/

@[simp] theorem State.setResult_rstate (s : State) (r : FnResult) :
    (s.setResult r).rstate = s.rstate := rfl
@[simp] theorem State.setResult_cnt (s : State) (r : FnResult) :
    (s.setResult r).cnt = s.cnt := rfl
@[simp] theorem State.setResult_buf (s : State) (r : FnResult) :
    (s.setResult r).buf = s.buf := rfl
@[simp] theorem State.setResult_base (s : State) (r : FnResult) :
    (s.setResult r).base = s.base := rfl
@[simp] theorem State.setResult_active (s : State) (r : FnResult) :
    (s.setResult r).active = s.active := rfl
@[simp] theorem State.setResult_color (s : State) (r : FnResult) :
    (s.setResult r).color = s.color := rfl
@[simp] theorem State.setResult_deadline (s : State) (r : FnResult) :
    (s.setResult r).deadline = s.deadline := rfl
@[simp] theorem State.setResult_fwd (s : State) (r : FnResult) :
    (s.setResult r).fwd = s.fwd := rfl
@[simp] theorem State.setResult_rev (s : State) (r : FnResult) :
    (s.setResult r).rev = s.rev := rfl
@[simp] theorem State.setResult_evt (s : State) (r : FnResult) :
    (s.setResult r).evt = s.evt := rfl
@[simp] theorem State.setResult_cmd (s : State) (r : FnResult) :
    (s.setResult r).cmd = s.cmd := rfl
@[simp] theorem State.setResult_dwr (s : State) (r : FnResult) :
    (s.setResult r).dwr = s.dwr := rfl
@[simp] theorem State.setResult_fnResult (s : State) (r : FnResult) :
    (s.setResult r).fnResult = some r := rfl
@[simp] theorem State.setResult_lastNow (s : State) (r : FnResult) :
    (s.setResult r).lastNow = s.lastNow := rfl
@[simp] theorem State.setResult_freeIdx (s : State) (r : FnResult) :
    (s.setResult r).freeIdx = s.freeIdx := rfl
@[simp] theorem State.setResult_script (s : State) (r : FnResult) :
    (s.setResult r).script = s.script := rfl

/-! ### `showColor` -/

@[simp] theorem State.showColor_rstate (s : State) (c : Color) (now : Time) :
    (s.showColor c now).rstate = s.rstate := rfl
@[simp] theorem State.showColor_cnt (s : State) (c : Color) (now : Time) :
    (s.showColor c now).cnt = s.cnt := rfl
@[simp] theorem State.showColor_buf (s : State) (c : Color) (now : Time) :
    (s.showColor c now).buf = s.buf := rfl
@[simp] theorem State.showColor_base (s : State) (c : Color) (now : Time) :
    (s.showColor c now).base = s.base := rfl
@[simp] theorem State.showColor_active (s : State) (c : Color) (now : Time) :
    (s.showColor c now).active = true := rfl
@[simp] theorem State.showColor_color (s : State) (c : Color) (now : Time) :
    (s.showColor c now).color = c := rfl
@[simp] theorem State.showColor_deadline (s : State) (c : Color) (now : Time) :
    (s.showColor c now).deadline = holdUntil now := rfl
@[simp] theorem State.showColor_fwd (s : State) (c : Color) (now : Time) :
    (s.showColor c now).fwd = s.fwd := rfl
@[simp] theorem State.showColor_rev (s : State) (c : Color) (now : Time) :
    (s.showColor c now).rev = s.rev := rfl
@[simp] theorem State.showColor_evt (s : State) (c : Color) (now : Time) :
    (s.showColor c now).evt = s.evt := rfl
@[simp] theorem State.showColor_cmd (s : State) (c : Color) (now : Time) :
    (s.showColor c now).cmd = s.cmd := rfl
@[simp] theorem State.showColor_dwr (s : State) (c : Color) (now : Time) :
    (s.showColor c now).dwr = s.dwr ++ [c] := rfl
@[simp] theorem State.showColor_fnResult (s : State) (c : Color) (now : Time) :
    (s.showColor c now).fnResult = s.fnResult := rfl
@[simp] theorem State.showColor_lastNow (s : State) (c : Color) (now : Time) :
    (s.showColor c now).lastNow = s.lastNow := rfl
@[simp] theorem State.showColor_freeIdx (s : State) (c : Color) (now : Time) :
    (s.showColor c now).freeIdx = s.freeIdx := rfl
@[simp] theorem State.showColor_script (s : State) (c : Color) (now : Time) :
    (s.showColor c now).script = s.script := rfl

/-! ### `raiseFailure` -/

@[simp] theorem State.raiseFailure_rstate (s : State) (f : Failure) (now : Time) :
    (s.raiseFailure f now).rstate = .scan := rfl
@[simp] theorem State.raiseFailure_cnt (s : State) (f : Failure) (now : Time) :
    (s.raiseFailure f now).cnt = 0 := rfl
@[simp] theorem State.raiseFailure_buf (s : State) (f : Failure) (now : Time) :
    (s.raiseFailure f now).buf = s.buf := rfl
@[simp] theorem State.raiseFailure_base (s : State) (f : Failure) (now : Time) :
    (s.raiseFailure f now).base = s.base := rfl
@[simp] theorem State.raiseFailure_active (s : State) (f : Failure) (now : Time) :
    (s.raiseFailure f now).active = true := rfl
@[simp] theorem State.raiseFailure_color (s : State) (f : Failure) (now : Time) :
    (s.raiseFailure f now).color = .error := rfl
@[simp] theorem State.raiseFailure_deadline (s : State) (f : Failure) (now : Time) :
    (s.raiseFailure f now).deadline = holdUntil now := rfl
@[simp] theorem State.raiseFailure_fwd (s : State) (f : Failure) (now : Time) :
    (s.raiseFailure f now).fwd = s.fwd := rfl
@[simp] theorem State.raiseFailure_rev (s : State) (f : Failure) (now : Time) :
    (s.raiseFailure f now).rev = s.rev := rfl
@[simp] theorem State.raiseFailure_evt (s : State) (f : Failure) (now : Time) :
    (s.raiseFailure f now).evt = failureEvt f := rfl
@[simp] theorem State.raiseFailure_cmd (s : State) (f : Failure) (now : Time) :
    (s.raiseFailure f now).cmd = s.cmd := rfl
@[simp] theorem State.raiseFailure_dwr (s : State) (f : Failure) (now : Time) :
    (s.raiseFailure f now).dwr = s.dwr ++ [.error] := rfl
@[simp] theorem State.raiseFailure_fnResult (s : State) (f : Failure) (now : Time) :
    (s.raiseFailure f now).fnResult = s.fnResult := rfl
@[simp] theorem State.raiseFailure_lastNow (s : State) (f : Failure) (now : Time) :
    (s.raiseFailure f now).lastNow = s.lastNow := rfl
@[simp] theorem State.raiseFailure_freeIdx (s : State) (f : Failure) (now : Time) :
    (s.raiseFailure f now).freeIdx = s.freeIdx := rfl
@[simp] theorem State.raiseFailure_script (s : State) (f : Failure) (now : Time) :
    (s.raiseFailure f now).script = s.script := rfl

/-! ### `mapDuties` -/

@[simp] theorem State.mapDuties_rstate (s : State) (v : CmdVec) :
    (s.mapDuties v).rstate = s.rstate := rfl
@[simp] theorem State.mapDuties_cnt (s : State) (v : CmdVec) :
    (s.mapDuties v).cnt = s.cnt := rfl
@[simp] theorem State.mapDuties_buf (s : State) (v : CmdVec) :
    (s.mapDuties v).buf = s.buf := rfl
@[simp] theorem State.mapDuties_base (s : State) (v : CmdVec) :
    (s.mapDuties v).base = s.base := rfl
@[simp] theorem State.mapDuties_active (s : State) (v : CmdVec) :
    (s.mapDuties v).active = s.active := rfl
@[simp] theorem State.mapDuties_color (s : State) (v : CmdVec) :
    (s.mapDuties v).color = s.color := rfl
@[simp] theorem State.mapDuties_deadline (s : State) (v : CmdVec) :
    (s.mapDuties v).deadline = s.deadline := rfl
@[simp] theorem State.mapDuties_fwd (s : State) (v : CmdVec) :
    (s.mapDuties v).fwd = forwardDuties v := rfl
@[simp] theorem State.mapDuties_rev (s : State) (v : CmdVec) :
    (s.mapDuties v).rev = reverseDuties v := rfl
@[simp] theorem State.mapDuties_evt (s : State) (v : CmdVec) :
    (s.mapDuties v).evt = s.evt := rfl
@[simp] theorem State.mapDuties_cmd (s : State) (v : CmdVec) :
    (s.mapDuties v).cmd = s.cmd := rfl
@[simp] theorem State.mapDuties_dwr (s : State) (v : CmdVec) :
    (s.mapDuties v).dwr = s.dwr := rfl
@[simp] theorem State.mapDuties_fnResult (s : State) (v : CmdVec) :
    (s.mapDuties v).fnResult = s.fnResult := rfl
@[simp] theorem State.mapDuties_lastNow (s : State) (v : CmdVec) :
    (s.mapDuties v).lastNow = s.lastNow := rfl
@[simp] theorem State.mapDuties_freeIdx (s : State) (v : CmdVec) :
    (s.mapDuties v).freeIdx = s.freeIdx := rfl
@[simp] theorem State.mapDuties_script (s : State) (v : CmdVec) :
    (s.mapDuties v).script = s.script := rfl

/-! ### `acceptSync` -/

@[simp] theorem State.acceptSync_rstate (s : State) :
    (s.acceptSync).rstate = .assemble := rfl
@[simp] theorem State.acceptSync_cnt (s : State) :
    (s.acceptSync).cnt = 0 := rfl
@[simp] theorem State.acceptSync_buf (s : State) :
    (s.acceptSync).buf = s.buf.set 0 Config.sync := rfl
@[simp] theorem State.acceptSync_base (s : State) :
    (s.acceptSync).base = s.base := rfl
@[simp] theorem State.acceptSync_active (s : State) :
    (s.acceptSync).active = s.active := rfl
@[simp] theorem State.acceptSync_color (s : State) :
    (s.acceptSync).color = s.color := rfl
@[simp] theorem State.acceptSync_deadline (s : State) :
    (s.acceptSync).deadline = s.deadline := rfl
@[simp] theorem State.acceptSync_fwd (s : State) :
    (s.acceptSync).fwd = s.fwd := rfl
@[simp] theorem State.acceptSync_rev (s : State) :
    (s.acceptSync).rev = s.rev := rfl
@[simp] theorem State.acceptSync_evt (s : State) :
    (s.acceptSync).evt = s.evt := rfl
@[simp] theorem State.acceptSync_cmd (s : State) :
    (s.acceptSync).cmd = s.cmd := rfl
@[simp] theorem State.acceptSync_dwr (s : State) :
    (s.acceptSync).dwr = s.dwr := rfl
@[simp] theorem State.acceptSync_fnResult (s : State) :
    (s.acceptSync).fnResult = s.fnResult := rfl
@[simp] theorem State.acceptSync_lastNow (s : State) :
    (s.acceptSync).lastNow = s.lastNow := rfl
@[simp] theorem State.acceptSync_freeIdx (s : State) :
    (s.acceptSync).freeIdx = s.freeIdx := rfl
@[simp] theorem State.acceptSync_script (s : State) :
    (s.acceptSync).script = s.script := rfl

/-! ### `takeFirst` -/

@[simp] theorem State.takeFirst_rstate (s : State) (b : Byte) (now : Time) :
    (s.takeFirst b now).rstate = s.rstate := rfl
@[simp] theorem State.takeFirst_cnt (s : State) (b : Byte) (now : Time) :
    (s.takeFirst b now).cnt = nextCnt s.cnt := rfl
@[simp] theorem State.takeFirst_buf (s : State) (b : Byte) (now : Time) :
    (s.takeFirst b now).buf = s.buf.set (s.cnt.val + 1) b (by have := s.cnt.isLt; omega) := rfl
@[simp] theorem State.takeFirst_base (s : State) (b : Byte) (now : Time) :
    (s.takeFirst b now).base = now := rfl
@[simp] theorem State.takeFirst_active (s : State) (b : Byte) (now : Time) :
    (s.takeFirst b now).active = s.active := rfl
@[simp] theorem State.takeFirst_color (s : State) (b : Byte) (now : Time) :
    (s.takeFirst b now).color = s.color := rfl
@[simp] theorem State.takeFirst_deadline (s : State) (b : Byte) (now : Time) :
    (s.takeFirst b now).deadline = s.deadline := rfl
@[simp] theorem State.takeFirst_fwd (s : State) (b : Byte) (now : Time) :
    (s.takeFirst b now).fwd = s.fwd := rfl
@[simp] theorem State.takeFirst_rev (s : State) (b : Byte) (now : Time) :
    (s.takeFirst b now).rev = s.rev := rfl
@[simp] theorem State.takeFirst_evt (s : State) (b : Byte) (now : Time) :
    (s.takeFirst b now).evt = s.evt := rfl
@[simp] theorem State.takeFirst_cmd (s : State) (b : Byte) (now : Time) :
    (s.takeFirst b now).cmd = s.cmd := rfl
@[simp] theorem State.takeFirst_dwr (s : State) (b : Byte) (now : Time) :
    (s.takeFirst b now).dwr = s.dwr := rfl
@[simp] theorem State.takeFirst_fnResult (s : State) (b : Byte) (now : Time) :
    (s.takeFirst b now).fnResult = s.fnResult := rfl
@[simp] theorem State.takeFirst_lastNow (s : State) (b : Byte) (now : Time) :
    (s.takeFirst b now).lastNow = s.lastNow := rfl
@[simp] theorem State.takeFirst_freeIdx (s : State) (b : Byte) (now : Time) :
    (s.takeFirst b now).freeIdx = s.freeIdx := rfl
@[simp] theorem State.takeFirst_script (s : State) (b : Byte) (now : Time) :
    (s.takeFirst b now).script = s.script := rfl

/-! ### `takeMid` -/

@[simp] theorem State.takeMid_rstate (s : State) (b : Byte) :
    (s.takeMid b).rstate = s.rstate := rfl
@[simp] theorem State.takeMid_cnt (s : State) (b : Byte) :
    (s.takeMid b).cnt = nextCnt s.cnt := rfl
@[simp] theorem State.takeMid_buf (s : State) (b : Byte) :
    (s.takeMid b).buf = s.buf.set (s.cnt.val + 1) b (by have := s.cnt.isLt; omega) := rfl
@[simp] theorem State.takeMid_base (s : State) (b : Byte) :
    (s.takeMid b).base = s.base := rfl
@[simp] theorem State.takeMid_active (s : State) (b : Byte) :
    (s.takeMid b).active = s.active := rfl
@[simp] theorem State.takeMid_color (s : State) (b : Byte) :
    (s.takeMid b).color = s.color := rfl
@[simp] theorem State.takeMid_deadline (s : State) (b : Byte) :
    (s.takeMid b).deadline = s.deadline := rfl
@[simp] theorem State.takeMid_fwd (s : State) (b : Byte) :
    (s.takeMid b).fwd = s.fwd := rfl
@[simp] theorem State.takeMid_rev (s : State) (b : Byte) :
    (s.takeMid b).rev = s.rev := rfl
@[simp] theorem State.takeMid_evt (s : State) (b : Byte) :
    (s.takeMid b).evt = s.evt := rfl
@[simp] theorem State.takeMid_cmd (s : State) (b : Byte) :
    (s.takeMid b).cmd = s.cmd := rfl
@[simp] theorem State.takeMid_dwr (s : State) (b : Byte) :
    (s.takeMid b).dwr = s.dwr := rfl
@[simp] theorem State.takeMid_fnResult (s : State) (b : Byte) :
    (s.takeMid b).fnResult = s.fnResult := rfl
@[simp] theorem State.takeMid_lastNow (s : State) (b : Byte) :
    (s.takeMid b).lastNow = s.lastNow := rfl
@[simp] theorem State.takeMid_freeIdx (s : State) (b : Byte) :
    (s.takeMid b).freeIdx = s.freeIdx := rfl
@[simp] theorem State.takeMid_script (s : State) (b : Byte) :
    (s.takeMid b).script = s.script := rfl

/-! ### `acceptFrame` -/

@[simp] theorem State.acceptFrame_rstate (s : State) (p : Payload) (now : Time) :
    (s.acceptFrame p now).rstate = s.rstate := rfl
@[simp] theorem State.acceptFrame_cnt (s : State) (p : Payload) (now : Time) :
    (s.acceptFrame p now).cnt = s.cnt := rfl
@[simp] theorem State.acceptFrame_buf (s : State) (p : Payload) (now : Time) :
    (s.acceptFrame p now).buf = s.buf := rfl
@[simp] theorem State.acceptFrame_base (s : State) (p : Payload) (now : Time) :
    (s.acceptFrame p now).base = s.base := rfl
@[simp] theorem State.acceptFrame_active (s : State) (p : Payload) (now : Time) :
    (s.acceptFrame p now).active = true := rfl
@[simp] theorem State.acceptFrame_color (s : State) (p : Payload) (now : Time) :
    (s.acceptFrame p now).color = .good := rfl
@[simp] theorem State.acceptFrame_deadline (s : State) (p : Payload) (now : Time) :
    (s.acceptFrame p now).deadline = holdUntil now := rfl
@[simp] theorem State.acceptFrame_fwd (s : State) (p : Payload) (now : Time) :
    (s.acceptFrame p now).fwd = forwardDuties (commandsOf p) := rfl
@[simp] theorem State.acceptFrame_rev (s : State) (p : Payload) (now : Time) :
    (s.acceptFrame p now).rev = reverseDuties (commandsOf p) := rfl
@[simp] theorem State.acceptFrame_evt (s : State) (p : Payload) (now : Time) :
    (s.acceptFrame p now).evt = .frameOk := rfl
@[simp] theorem State.acceptFrame_cmd (s : State) (p : Payload) (now : Time) :
    (s.acceptFrame p now).cmd = some (commandsOf p) := rfl
@[simp] theorem State.acceptFrame_dwr (s : State) (p : Payload) (now : Time) :
    (s.acceptFrame p now).dwr = s.dwr ++ [.good] := rfl
@[simp] theorem State.acceptFrame_fnResult (s : State) (p : Payload) (now : Time) :
    (s.acceptFrame p now).fnResult = s.fnResult := rfl
@[simp] theorem State.acceptFrame_lastNow (s : State) (p : Payload) (now : Time) :
    (s.acceptFrame p now).lastNow = s.lastNow := rfl
@[simp] theorem State.acceptFrame_freeIdx (s : State) (p : Payload) (now : Time) :
    (s.acceptFrame p now).freeIdx = s.freeIdx := rfl
@[simp] theorem State.acceptFrame_script (s : State) (p : Payload) (now : Time) :
    (s.acceptFrame p now).script = s.script := rfl

/-! ### `withInput` -/

@[simp] theorem State.withInput_rstate (s : State) (i : Input) :
    (s.withInput i).rstate = s.rstate := rfl
@[simp] theorem State.withInput_cnt (s : State) (i : Input) :
    (s.withInput i).cnt = s.cnt := rfl
@[simp] theorem State.withInput_buf (s : State) (i : Input) :
    (s.withInput i).buf = s.buf := rfl
@[simp] theorem State.withInput_base (s : State) (i : Input) :
    (s.withInput i).base = s.base := rfl
@[simp] theorem State.withInput_active (s : State) (i : Input) :
    (s.withInput i).active = s.active := rfl
@[simp] theorem State.withInput_color (s : State) (i : Input) :
    (s.withInput i).color = s.color := rfl
@[simp] theorem State.withInput_deadline (s : State) (i : Input) :
    (s.withInput i).deadline = s.deadline := rfl
@[simp] theorem State.withInput_fwd (s : State) (i : Input) :
    (s.withInput i).fwd = s.fwd := rfl
@[simp] theorem State.withInput_rev (s : State) (i : Input) :
    (s.withInput i).rev = s.rev := rfl
@[simp] theorem State.withInput_evt (s : State) (i : Input) :
    (s.withInput i).evt = s.evt := rfl
@[simp] theorem State.withInput_cmd (s : State) (i : Input) :
    (s.withInput i).cmd = s.cmd := rfl
@[simp] theorem State.withInput_dwr (s : State) (i : Input) :
    (s.withInput i).dwr = s.dwr := rfl
@[simp] theorem State.withInput_fnResult (s : State) (i : Input) :
    (s.withInput i).fnResult = s.fnResult := rfl
@[simp] theorem State.withInput_lastNow (s : State) (i : Input) :
    (s.withInput i).lastNow = s.lastNow := rfl
@[simp] theorem State.withInput_freeIdx (s : State) (i : Input) :
    (s.withInput i).freeIdx = s.freeIdx := rfl
@[simp] theorem State.withInput_script (s : State) (i : Input) :
    (s.withInput i).script = i :: s.script := rfl

/-! ### `resetRegisters` -/

@[simp] theorem State.resetRegisters_rstate (s : State) :
    s.resetRegisters.rstate = .scan := rfl
@[simp] theorem State.resetRegisters_cnt (s : State) :
    s.resetRegisters.cnt = 0 := rfl
@[simp] theorem State.resetRegisters_active (s : State) :
    s.resetRegisters.active = false := rfl
@[simp] theorem State.resetRegisters_color (s : State) :
    s.resetRegisters.color = .idle := rfl
@[simp] theorem State.resetRegisters_fwd (s : State) :
    s.resetRegisters.fwd = Vector.replicate 8 0#8 := rfl
@[simp] theorem State.resetRegisters_rev (s : State) :
    s.resetRegisters.rev = Vector.replicate 8 0#8 := rfl
@[simp] theorem State.resetRegisters_evt (s : State) :
    s.resetRegisters.evt = .none := rfl
@[simp] theorem State.resetRegisters_cmd (s : State) :
    s.resetRegisters.cmd = none := rfl
@[simp] theorem State.resetRegisters_dwr (s : State) :
    s.resetRegisters.dwr = [] := rfl
@[simp] theorem State.resetRegisters_fnResult (s : State) :
    s.resetRegisters.fnResult = s.fnResult := rfl
@[simp] theorem State.resetRegisters_lastNow (s : State) :
    s.resetRegisters.lastNow = none := rfl
@[simp] theorem State.resetRegisters_script (s : State) :
    s.resetRegisters.script = s.script := rfl

end Sys2Proof.Machine
end

