-- ==== Sys2Proof/Laws/Ops.lean ====
section
/-! SUPPORT. For each shared operation one lemma that says everything it can do; the clock guard; the relations of Safety. -/

namespace Sys2Proof.Machine

/-! ### The clock guard -/

theorem clockFits_iff (now : Time) : clockFits now = true ↔ now.toNat + 500000 < 2 ^ 64 := by
  rw [clockFits, decide_eq_true_eq]
  rfl

theorem State.windowRuns_iff (s : State) :
    s.windowRuns = true ↔ s.rstate = .assemble ∧ 1 ≤ s.cnt.val := by
  simp [State.windowRuns]

theorem notAfter_iff (last : Option Time) (now : Time) :
    notAfter last now = true ↔ ∀ t, last = some t → t.toNat ≤ now.toNat := by
  cases last <;> simp [notAfter]

theorem State.clockMonotonic_iff (s : State) (now : Time) :
    s.clockMonotonic now = true ↔
      (∀ t, s.lastNow = some t → t.toNat ≤ now.toNat) ∧
      (s.rstate = .assemble → 1 ≤ s.cnt.val → s.base.toNat ≤ now.toNat) := by
  unfold State.clockMonotonic
  rw [Bool.and_eq_true, Bool.or_eq_true, Bool.not_eq_true', ← Bool.not_eq_true, s.windowRuns_iff,
    decide_eq_true_eq, notAfter_iff]
  constructor
  · rintro ⟨h1, h2⟩
    exact ⟨h1, fun ha hc => h2.resolve_left fun hn => hn ⟨ha, hc⟩⟩
  · rintro ⟨h1, h2⟩
    exact ⟨h1, or_iff_not_imp_left.mpr fun hn => h2 (not_not.mp hn).1 (not_not.mp hn).2⟩

theorem State.timeOk_iff (s : State) (now : Time) :
    s.TimeOk now ↔ clockFits now = true ∧ s.clockMonotonic now = true := by
  rw [clockFits_iff, s.clockMonotonic_iff]
  exact ⟨fun h => ⟨h.fits, h.monotonic, h.window⟩, fun h => ⟨⟨h.2.1, h.1⟩, h.2.2⟩⟩

/-- Everything the guard can answer. -/
theorem atTime_cases (now : Time) (s : State) (k : State → Host.Outcome State Fault Refusal) :
    (s.TimeOk now ∧ atTime now s k = k { s with lastNow := some now }) ∨
    (¬ now.toNat + 500000 < 2 ^ 64 ∧ atTime now s k = .refused .clockOverflow) ∨
    (now.toNat + 500000 < 2 ^ 64 ∧ ¬ s.TimeOk now ∧ atTime now s k = .refused .clockWentBack) := by
  have hf := clockFits_iff now
  have ht := s.timeOk_iff now
  unfold atTime
  cases h1 : clockFits now
  · exact .inr (.inl ⟨fun h => Bool.false_ne_true (h1 ▸ hf.mpr h), by simp⟩)
  · cases h2 : s.clockMonotonic now
    · exact .inr (.inr ⟨hf.mp h1, by simp [ht, h2], by simp⟩)
    · exact .inl ⟨by simp [ht, h1, h2], by simp⟩

theorem atTime_of_ok {now : Time} {s : State} (h : s.TimeOk now)
    (k : State → Host.Outcome State Fault Refusal) :
    atTime now s k = k { s with lastNow := some now } := by
  rcases atTime_cases now s k with ⟨_, h'⟩ | ⟨h', _⟩ | ⟨_, h', _⟩
  · exact h'
  · exact absurd h.fits h'
  · exact absurd h h'

theorem atTime_eq_next {now : Time} {s t : State} {k : State → Host.Outcome State Fault Refusal}
    (h : atTime now s k = .next t) : s.TimeOk now ∧ k { s with lastNow := some now } = .next t := by
  rcases atTime_cases now s k with ⟨ho, h'⟩ | ⟨_, h'⟩ | ⟨_, _, h'⟩
  · exact ⟨ho, h' ▸ h⟩
  · rw [h'] at h
    cases h
  · rw [h'] at h
    cases h

/-! ### Conditions -/

theorem State.expired_iff (s : State) (now : Time) : s.expired now = true ↔ s.Expires now := by
  simp [State.expired, State.Expires]

theorem State.windowExceeded_iff (s : State) (now : Time) :
    s.windowExceeded now = true ↔ s.TimedOut now := by
  unfold State.windowExceeded State.TimedOut
  rw [Bool.and_eq_true, s.windowRuns_iff, decide_eq_true_eq]
  simp [Config.frameTimeoutUs, State.elapsed, and_assoc]

/-! ### Micro-operations -/

theorem holdUntil_toNat {now : Time} (h : now.toNat + 500000 < 2 ^ 64) :
    (holdUntil now).toNat = now.toNat + 500000 := by
  unfold holdUntil Config.holdUs
  rw [BitVec.toNat_add, BitVec.toNat_ofNat]
  omega

@[simp] theorem nextCnt_of_lt {c : Fin 9} (h : c.val < 8) : (nextCnt c).val = c.val + 1 := by
  have h' : c.val + 1 < 9 := by omega
  rw [nextCnt, dif_pos h']

@[simp] theorem nextCnt_eight : nextCnt 8 = 0 := rfl

/-- Everything POLL can do (R151). -/
theorem State.pollAt_cases (s : State) (now : Time) :
    (s.Expires now ∧ s.pollAt now = { s with active := false, color := .idle }.emit .idle) ∨
    (¬ s.Expires now ∧ s.pollAt now = s) := by
  rw [← s.expired_iff]
  unfold State.pollAt
  split <;> simp_all

/-- Everything TCHK can do (R108). -/
theorem State.checkWindow_cases (s : State) (now : Time) :
    (s.TimedOut now ∧ s.checkWindow now = s.raiseFailure .frameTimeout now) ∨
    (¬ s.TimedOut now ∧ s.checkWindow now = s) := by
  rw [← s.windowExceeded_iff]
  unfold State.checkWindow
  split <;> simp_all

/-- Everything R72 can select (rows 3 to 7). -/
theorem selectRx_cases (r : RState) (c : Fin 9) (b : Byte) :
    (r = .scan ∧ b = Config.sync ∧ selectRx r c b = .sync) ∨
    (r = .scan ∧ b ≠ Config.sync ∧ selectRx r c b = .drop) ∨
    (r = .assemble ∧ c.val = 0 ∧ selectRx r c b = .first) ∨
    (r = .assemble ∧ 1 ≤ c.val ∧ c.val ≤ 7 ∧ selectRx r c b = .mid) ∨
    (r = .assemble ∧ c.val = 8 ∧ selectRx r c b = .last) := by
  have := c.isLt
  cases r
  · by_cases hb : b = Config.sync
    · exact .inl ⟨rfl, hb, by simp [selectRx, hb]⟩
    · exact .inr (.inl ⟨rfl, hb, by simp [selectRx, hb]⟩)
  · by_cases h0 : c.val = 0
    · exact .inr (.inr (.inl ⟨rfl, h0, by simp [selectRx, h0]⟩))
    · by_cases h8 : c.val = 8
      · exact .inr (.inr (.inr (.inr ⟨rfl, h8, by simp [selectRx, h8]⟩)))
      · exact .inr (.inr (.inr (.inl ⟨rfl, by omega, by omega, by simp [selectRx, h0, h8]⟩)))

/-- The checksum RX.ASM.LAST computes is that of the eight bytes stored before. -/
theorem State.storeByte_checksum {s : State} (hc : s.cnt = 8) (b : Byte) :
    csumOf (payloadOf (s.storeByte b).buf) =
      s.buf[1] ^^^ s.buf[2] ^^^ s.buf[3] ^^^ s.buf[4] ^^^ s.buf[5] ^^^ s.buf[6] ^^^ s.buf[7] ^^^ s.buf[8] := by
  simp [csumOf, hc]

/-- The checksum byte RX.ASM.LAST compares it with is the byte it takes. -/
theorem State.storeByte_last {s : State} (hc : s.cnt = 8) (b : Byte) : (s.storeByte b).buf[9] = b := by
  simp [hc]

/-- Everything RX.ASM.LAST can do (R106). -/
theorem State.takeLast_cases (s : State) (b : Byte) (now : Time) :
    (∃ p, validateFrame (s.storeByte b).buf = .ok p ∧
      s.takeLast b now = ((s.storeByte b).acceptFrame p now).setReader .scan 0) ∨
    (validateFrame (s.storeByte b).buf = .checksumMismatch ∧
      s.takeLast b now = ((s.storeByte b).raiseFailure .checksumMismatch now).setReader .scan 0) := by
  unfold State.takeLast
  cases h : validateFrame (s.storeByte b).buf with
  | ok p => exact .inl ⟨p, rfl, rfl⟩
  | checksumMismatch => exact .inr ⟨rfl, rfl⟩

/-- Everything the RX operation of a step can do (R72, R170). -/
theorem State.receive_cases (s : State) (b : Byte) (now : Time) :
    (s.rstate = .scan ∧ b = Config.sync ∧ s.receive b now = s.acceptSync) ∨
    (s.rstate = .scan ∧ b ≠ Config.sync ∧ s.receive b now = s) ∨
    (s.rstate = .assemble ∧ s.cnt.val = 0 ∧ s.receive b now = s.takeFirst b now) ∨
    (s.rstate = .assemble ∧ 1 ≤ s.cnt.val ∧ s.cnt.val ≤ 7 ∧ s.receive b now = s.takeMid b) ∨
    (s.rstate = .assemble ∧ s.cnt.val = 8 ∧ s.receive b now = s.takeLast b now) := by
  unfold State.receive
  rcases selectRx_cases s.rstate s.cnt b with h | h | h | h | h
  · exact .inl ⟨h.1, h.2.1, by rw [h.2.2]⟩
  · exact .inr (.inl ⟨h.1, h.2.1, by rw [h.2.2]⟩)
  · exact .inr (.inr (.inl ⟨h.1, h.2.1, by rw [h.2.2]⟩))
  · exact .inr (.inr (.inr (.inl ⟨h.1, h.2.1, h.2.2.1, by rw [h.2.2.2]⟩)))
  · exact .inr (.inr (.inr (.inr ⟨h.1, h.2.1, by rw [h.2.2]⟩)))

/-! ### Sequencing and fetching -/

@[simp] theorem andThen_next (s : State) (k : State → Host.Outcome State Fault Refusal) :
    andThen (.next s) k = k s := rfl

@[simp] theorem andThen_refused (r : Refusal) (k : State → Host.Outcome State Fault Refusal) :
    andThen (.refused r) k = .refused r := rfl

theorem State.fetch_withInput (s : State) (i : Input) : (s.withInput i).fetch = some (i, s) := rfl

theorem State.fetch_cons {s : State} {i : Input} {rest : List Input} (h : s.script = i :: rest) :
    s.fetch = some (i, { s with script := rest }) := by
  unfold State.fetch
  rw [h]

/-- A step runs the operation of the next input. -/
theorem step_cons {s : State} {inp : Input} {rest : List Input} {i : Instr}
    (h : s.script = inp :: rest) (hd : decodeInput inp = .ok i) :
    step s = exec i { s with script := rest } := by
  unfold step
  rw [State.fetch_cons h]
  simp only [hd]

/-- Everything a step that answers a next state has done. -/
theorem step_eq_next {s t : State} (h : step s = .next t) :
    ∃ inp rest i, s.script = inp :: rest ∧ decodeInput inp = .ok i ∧
      exec i { s with script := rest } = .next t := by
  cases hs : s.script with
  | nil =>
    simp only [step, State.fetch, hs] at h
    cases h
  | cons inp rest =>
    cases hd : decodeInput inp with
    | ok i => exact ⟨inp, rest, i, rfl, hd, step_cons hs hd ▸ h⟩
    | error e =>
      simp only [step, State.fetch_cons hs, hd] at h
      cases h

/-- Which operation an input can be: at the port RESET, STEP.IDLE or STEP.RX, else a pure function (R72, R79). -/
theorem decodeInput_port (word : BitVec 10) (now : Time) :
    decodeInput (.stim word now) = .ok .reset ∨
    decodeInput (.stim word now) = .ok (.stepIdle now) ∨
    decodeInput (.stim word now) = .ok (.stepRx (word.extractLsb' 0 8) now) := by
  rw [show decodeInput (.stim word now) = .ok (decodeStim word now) from rfl]
  unfold decodeStim
  split
  · exact .inl rfl
  · split
    · exact .inr (.inr rfl)
    · exact .inr (.inl rfl)

/-- A pure function's input decodes to that function. -/
theorem decodeInput_call {fn : Fn} {w : Nat} {i : Instr} (h : decodeInput (.call fn w) = .ok i) :
    (∃ p, i = .csum p) ∨ (∃ f, i = .validate f) ∨ (∃ v, i = .split v) ∨ (∃ v, i = .encode v) := by
  simp only [decodeInput, decode] at h
  split at h
  · cases h
  · split at h
    · cases h
    · cases fn <;> simp only [Fn.row, decodeOperands] at h
      · exact .inl ⟨_, (Except.ok.inj h).symm⟩
      · exact .inr (.inl ⟨_, (Except.ok.inj h).symm⟩)
      · exact .inr (.inr (.inl ⟨_, (Except.ok.inj h).symm⟩))
      · split at h
        · exact .inr (.inr (.inr ⟨_, (Except.ok.inj h).symm⟩))
        · cases h

theorem decodeInput_byteInput (b : Byte) (now : Time) :
    decodeInput (byteInput b now) = .ok (.stepRx b now) := by
  have h9 : (0x100#10 ||| b.zeroExtend 10).getLsbD 9 = false := by simp
  have h8 : (0x100#10 ||| b.zeroExtend 10).getLsbD 8 = true := by simp
  have hb : (0x100#10 ||| b.zeroExtend 10).extractLsb' 0 8 = b := by
    ext i hi
    interval_cases i <;> simp
  simp only [byteInput, decodeInput, decodeStim, h9, h8, hb, Bool.false_eq_true, if_false, if_true]

theorem decodeInput_idleInput (now : Time) : decodeInput (idleInput now) = .ok (.stepIdle now) := rfl

/-! ### Agreement on what has a meaning -/

theorem State.Agree.rfl' (s : State) : s.Agree s := by
  constructor <;> simp

theorem State.Agree.symm {s t : State} (h : s.Agree t) : t.Agree s where
  rstate := h.rstate.symm
  cnt := h.cnt.symm
  active := h.active.symm
  color := h.color.symm
  fwd := h.fwd.symm
  rev := h.rev.symm
  evt := h.evt.symm
  cmd := h.cmd.symm
  dwr := h.dwr.symm
  fnResult := h.fnResult.symm
  lastNow := h.lastNow.symm
  script := h.script.symm
  base := fun hr hc => (h.base (h.rstate.trans hr) (h.cnt ▸ hc)).symm
  deadline := fun ha => (h.deadline (h.active.trans ha)).symm
  buf := fun hr i h1 hi => (h.buf (h.rstate.trans hr) i h1 (h.cnt ▸ hi)).symm

end Sys2Proof.Machine
end

