-- ==== Sys2Proof/Laws/PerInstr.lean ====
section
/-! SUPPORT. Statements made of every operation as syntax. `EncodeFits`: the encoder's word is of the operation's own row, no
wider than the row, with the row's fixed bits. -/

namespace Sys2Proof.Laws.EncodeFits

def Statement (i : Instr) : Prop :=
  (encode i).row = i.row ∧ (encode i).bits < 2 ^ i.row.spec.width ∧
    (encode i).bits &&& i.row.spec.mask = i.row.spec.pattern

/-- The rows whose word is bits 9:8 = 01 and a byte. -/
theorem rx_fits {i : Instr} {b : Byte} (hr : (encode i).row = i.row) (hs : i.row.spec = ⟨10, 0x300, 0x100⟩)
    (hb : (encode i).bits = 0x100 + b.toNat) : Statement i := by
  have := b.isLt
  refine ⟨hr, ?_, ?_⟩ <;> rw [hs, hb]
  · simp only
    omega
  · exact rx_fixed_bits b.toFin

/-- The rows without fixed bits. -/
theorem free_fits {i : Instr} {w : Nat} (hr : (encode i).row = i.row) (hs : i.row.spec = ⟨w, 0, 0⟩)
    (hb : (encode i).bits < 2 ^ w) : Statement i := by
  refine ⟨hr, ?_, ?_⟩ <;> rw [hs]
  · exact hb
  · exact Nat.and_zero _

theorem reset : Statement .reset := ⟨rfl, by decide, by decide⟩

theorem stepIdle (now : Time) : Statement (.stepIdle now) :=
  ⟨rfl, (by decide : (0 : Nat) < 2 ^ 10), (by decide : (0 : Nat) &&& 0x300 = 0)⟩

theorem stepRx (b : Byte) (now : Time) : Statement (.stepRx b now) := rx_fits rfl rfl rfl

theorem poll (now : Time) : Statement (.poll now) :=
  ⟨rfl, (by decide : (0 : Nat) < 2 ^ 10), (by decide : (0 : Nat) &&& 0x200 = 0)⟩

theorem tchk (now : Time) : Statement (.tchk now) :=
  ⟨rfl, (by decide : (0 : Nat) < 2 ^ 10), (by decide : (0 : Nat) &&& 0x200 = 0)⟩

theorem rxScanDrop (b : Byte) : Statement (.rxScanDrop b) := rx_fits rfl rfl rfl

theorem rxScanSync : Statement .rxScanSync := ⟨rfl, by decide, by decide⟩

theorem rxAsmFirst (b : Byte) (now : Time) : Statement (.rxAsmFirst b now) := rx_fits rfl rfl rfl

theorem rxAsmMid (b : Byte) : Statement (.rxAsmMid b) := rx_fits rfl rfl rfl

theorem rxAsmLast (b : Byte) (now : Time) : Statement (.rxAsmLast b now) := rx_fits rfl rfl rfl

theorem csum (p : Payload) : Statement (.csum p) := free_fits rfl rfl (payload_bits_lt p)

theorem validate (f : Frame) : Statement (.validate f) := free_fits rfl rfl (frame_bits_lt f)

theorem split (v : Int) : Statement (.split v) := free_fits rfl rfl (u8 v).isLt

theorem map (cmd : CmdVec) : Statement (.map cmd) := free_fits rfl rfl (payload_bits_lt _)

theorem trigger (c : Color) (now : Time) : Statement (.trigger c now) := free_fits rfl rfl c.code.isLt

theorem encode (v : CmdVec) : Statement (.encode v) := by
  refine ⟨rfl, frame_bits_lt _, ?_⟩
  have h := frame_high_byte (encodeFrame v)
  rw [Machine.encodeFrame_sync] at h
  exact h

end Sys2Proof.Laws.EncodeFits
end

