-- ==== Sys2Proof/Laws/Step.lean ====
section
/-! SUPPORT. What each operation answers, in terms of the shared operations, and everything the first part of a step can do. -/

namespace Sys2Proof.Machine

/-! ### The meanings, as the guard or the condition over a shared operation -/

theorem exec_reset (s : State) : exec .reset s = .next s.resetRegisters := rfl

theorem exec_csum (p : Payload) (s : State) : exec (.csum p) s = .next (s.setResult (.csum (csumOf p))) := rfl

theorem exec_validate (f : Frame) (s : State) :
    exec (.validate f) s = .next (s.setResult (.validate (validateFrame f))) := rfl

theorem exec_split_ok {v : Int} (h : CmdInRange v) (s : State) :
    exec (.split v) s = .next (s.setResult (.split (splitDuty v).1 (splitDuty v).2)) := if_pos h

theorem exec_encode_ok {v : CmdVec} (h : CmdVecInRange v) (s : State) :
    exec (.encode v) s = .next (s.setResult (.encode (encodeFrame v))) := if_pos h

theorem exec_map_ok {cmd : CmdVec} (h : CmdVecInRange cmd) (s : State) :
    exec (.map cmd) s = .next (s.mapDuties cmd) := if_pos h

theorem exec_poll (now : Time) (s : State) :
    exec (.poll now) s = atTime now s fun s => .next (s.pollAt now) := rfl

theorem exec_tchk (now : Time) (s : State) :
    exec (.tchk now) s = atTime now s fun s => .next (s.checkWindow now) := rfl

theorem exec_trigger (c : Color) (now : Time) (s : State) :
    exec (.trigger c now) s = atTime now s fun s => .next (s.showColor c now) := rfl

theorem exec_stepIdle (now : Time) (s : State) :
    exec (.stepIdle now) s = atTime now s fun s => .next (s.housekeep now) := rfl

theorem exec_stepRx (b : Byte) (now : Time) (s : State) :
    exec (.stepRx b now) s = atTime now s fun s => .next ((s.housekeep now).receive b now) := rfl

theorem exec_poll_ok {now : Time} {s : State} (h : s.TimeOk now) :
    exec (.poll now) s = .next (State.pollAt { s with lastNow := some now } now) :=
  atTime_of_ok h fun s => .next (s.pollAt now)

theorem exec_tchk_ok {now : Time} {s : State} (h : s.TimeOk now) :
    exec (.tchk now) s = .next (State.checkWindow { s with lastNow := some now } now) :=
  atTime_of_ok h fun s => .next (s.checkWindow now)

theorem exec_trigger_ok {c : Color} {now : Time} {s : State} (h : s.TimeOk now) :
    exec (.trigger c now) s = .next (State.showColor { s with lastNow := some now } c now) :=
  atTime_of_ok h fun s => .next (s.showColor c now)

theorem exec_stepIdle_ok {now : Time} {s : State} (h : s.TimeOk now) :
    exec (.stepIdle now) s = .next (State.housekeep { s with lastNow := some now } now) :=
  atTime_of_ok h fun s => .next (s.housekeep now)

theorem exec_stepRx_ok {b : Byte} {now : Time} {s : State} (h : s.TimeOk now) :
    exec (.stepRx b now) s = .next ((State.housekeep { s with lastNow := some now } now).receive b now) :=
  atTime_of_ok h fun s => .next ((s.housekeep now).receive b now)

theorem exec_stepIdle_eq_next {now : Time} {s t : State} (h : exec (.stepIdle now) s = .next t) :
    s.TimeOk now ∧ t = State.housekeep { s with lastNow := some now } now := by
  obtain ⟨ho, hk⟩ := atTime_eq_next (now := now) (s := s) (k := fun s => .next (s.housekeep now)) h
  simp only [Host.Outcome.next.injEq] at hk
  exact ⟨ho, hk.symm⟩

theorem exec_stepRx_eq_next {b : Byte} {now : Time} {s t : State} (h : exec (.stepRx b now) s = .next t) :
    s.TimeOk now ∧ t = (State.housekeep { s with lastNow := some now } now).receive b now := by
  obtain ⟨ho, hk⟩ := atTime_eq_next (now := now) (s := s) (k := fun s => .next ((s.housekeep now).receive b now)) h
  simp only [Host.Outcome.next.injEq] at hk
  exact ⟨ho, hk.symm⟩

/-! ### The first part of a step -/

/-- The state after POLL of a step: the indicator expired, or only the outputs cleared. -/
theorem State.polled_cases (s : State) (now : Time) :
    (s.Expires now ∧ s.beginStep.pollAt now =
      { s with active := false, color := .idle, evt := .none, cmd := none, dwr := [.idle] }) ∨
    (¬ s.Expires now ∧ s.beginStep.pollAt now = s.beginStep) := by
  rcases s.beginStep.pollAt_cases now with ⟨h, e⟩ | ⟨h, e⟩
  · exact .inl ⟨h, e⟩
  · exact .inr ⟨h, e⟩

/-- POLL does not touch what TCHK tests. -/
theorem State.polled_timedOut (s : State) (now : Time) :
    (s.beginStep.pollAt now).TimedOut now ↔ s.TimedOut now := by
  rcases s.polled_cases now with ⟨_, e⟩ | ⟨_, e⟩ <;> rw [e] <;> rfl

/-- Everything POLL and TCHK of a step can do (R170): a time-out on the state POLL left, or that state. -/
theorem State.housekeep_cases (s : State) (now : Time) :
    (s.TimedOut now ∧ s.housekeep now = (s.beginStep.pollAt now).raiseFailure .frameTimeout now) ∨
    (¬ s.TimedOut now ∧ s.housekeep now = s.beginStep.pollAt now) := by
  have ht := s.polled_timedOut now
  rcases (s.beginStep.pollAt now).checkWindow_cases now with ⟨h, e⟩ | ⟨h, e⟩
  · exact .inl ⟨ht.mp h, e⟩
  · exact .inr ⟨fun h' => h (ht.mpr h'), e⟩

/-- What POLL of a step leaves as it was, and the outputs it starts from. -/
theorem State.polled_fields (s : State) (now : Time) :
    s.SameReader (s.beginStep.pollAt now) ∧ s.SameDuties (s.beginStep.pollAt now) ∧
    s.SameOwn (s.beginStep.pollAt now) ∧ (s.beginStep.pollAt now).deadline = s.deadline ∧
    (s.beginStep.pollAt now).lastNow = s.lastNow ∧
    (s.beginStep.pollAt now).evt = .none ∧ (s.beginStep.pollAt now).cmd = none := by
  rcases s.polled_cases now with ⟨_, e⟩ | ⟨_, e⟩ <;> rw [e] <;>
    exact ⟨⟨rfl, rfl, rfl, rfl⟩, ⟨rfl, rfl⟩, ⟨rfl, rfl, rfl⟩, rfl, rfl, rfl, rfl⟩

/-- POLL and TCHK leave the duties, the buffer, `BASE` and the model's own fields. -/
theorem State.housekeep_frame (s : State) (now : Time) :
    s.SameDuties (s.housekeep now) ∧ (s.housekeep now).buf = s.buf ∧ (s.housekeep now).base = s.base ∧
    s.SameOwn (s.housekeep now) ∧ (s.housekeep now).lastNow = s.lastNow := by
  obtain ⟨⟨_, _, hb, hba⟩, hd, ho, _, hl, _⟩ := s.polled_fields now
  rcases s.housekeep_cases now with ⟨_, e⟩ | ⟨_, e⟩ <;> rw [e] <;> exact ⟨hd, hb, hba, ho, hl⟩

/-- No RX operation touches the model's own fields. -/
theorem State.receive_own (s : State) (b : Byte) (now : Time) :
    s.SameOwn (s.receive b now) ∧ (s.receive b now).lastNow = s.lastNow := by
  rcases s.receive_cases b now with ⟨_, _, e⟩ | ⟨_, _, e⟩ | ⟨_, _, e⟩ | ⟨_, _, _, e⟩ | ⟨_, _, e⟩ <;> rw [e]
  any_goals exact ⟨⟨rfl, rfl, rfl⟩, rfl⟩
  rcases s.takeLast_cases b now with ⟨p, _, e⟩ | ⟨_, e⟩ <;> rw [e] <;> exact ⟨⟨rfl, rfl, rfl⟩, rfl⟩

/-- Everything the RX operation of a step can do to the indicator and the outputs: nothing, or a trigger with an event. -/
theorem State.receive_indicator (s : State) (b : Byte) (now : Time) :
    (s.SameIndicator (s.receive b now) ∧ s.SameOutputs (s.receive b now)) ∨
    (s.rstate = .assemble ∧ s.cnt.val = 8 ∧ (s.receive b now).active = true ∧
      (s.receive b now).deadline = holdUntil now ∧
      (s.receive b now).dwr = s.dwr ++ [(s.receive b now).color] ∧
      (((s.receive b now).evt = .frameOk ∧ (s.receive b now).color = .good) ∨
        ((s.receive b now).evt = .checksumMismatch ∧ (s.receive b now).color = .error))) := by
  rcases s.receive_cases b now with ⟨_, _, e⟩ | ⟨_, _, e⟩ | ⟨_, _, e⟩ | ⟨_, _, _, e⟩ | ⟨hr, hc, e⟩ <;> rw [e]
  any_goals exact .inl ⟨⟨rfl, rfl, rfl⟩, rfl, rfl, rfl⟩
  rcases s.takeLast_cases b now with ⟨p, _, e⟩ | ⟨_, e⟩ <;> rw [e]
  · exact .inr ⟨hr, hc, rfl, rfl, rfl, .inl ⟨rfl, rfl⟩⟩
  · exact .inr ⟨hr, hc, rfl, rfl, rfl, .inr ⟨rfl, rfl⟩⟩

/-! ### The whole step -/

/-- A pure function's input that gives a next state only puts down a result. -/
theorem exec_call_eq_next {fn : Fn} {w : Nat} {i : Instr} {s t : State}
    (hd : decodeInput (.call fn w) = .ok i) (h : exec i s = .next t) : ∃ r, t = s.setResult r := by
  rcases decodeInput_call hd with ⟨p, rfl⟩ | ⟨f, rfl⟩ | ⟨v, rfl⟩ | ⟨v, rfl⟩
  · rw [exec_csum] at h
    cases h
    exact ⟨_, rfl⟩
  · rw [exec_validate] at h
    cases h
    exact ⟨_, rfl⟩
  · simp only [exec, execSplit] at h
    split at h <;> cases h
    exact ⟨_, rfl⟩
  · simp only [exec, execEncode] at h
    split at h <;> cases h
    exact ⟨_, rfl⟩

/-- Everything a step that answers a next state can have been: a pure function, RESET, STEP.IDLE or STEP.RX. -/
theorem step_cases {s t : State} (h : step s = .next t) :
    (∃ r rest, t = State.setResult { s with script := rest } r) ∨
    ∃ word now rest, s.script = .stim word now :: rest ∧
      ((word.getLsbD 9 = true ∧ t = State.resetRegisters { s with script := rest }) ∨
       (word.getLsbD 9 = false ∧ word.getLsbD 8 = false ∧ State.TimeOk { s with script := rest } now ∧
         t = State.housekeep { s with script := rest, lastNow := some now } now) ∨
       (word.getLsbD 9 = false ∧ word.getLsbD 8 = true ∧ State.TimeOk { s with script := rest } now ∧
         t = (State.housekeep { s with script := rest, lastNow := some now } now).receive
           (word.extractLsb' 0 8) now)) := by
  obtain ⟨inp, rest, i, hs, hd, he⟩ := step_eq_next h
  cases inp with
  | malformed n w => cases hd
  | call fn w =>
    obtain ⟨r, hr⟩ := exec_call_eq_next hd he
    exact .inl ⟨r, rest, hr⟩
  | stim word now =>
    refine .inr ⟨word, now, rest, hs, ?_⟩
    simp only [decodeInput, decodeStim, Except.ok.injEq] at hd
    cases h9 : word.getLsbD 9 <;> simp only [h9, if_true, Bool.false_eq_true, if_false] at hd
    · cases h8 : word.getLsbD 8 <;> simp only [h8, if_true, Bool.false_eq_true, if_false] at hd <;> subst hd
      · exact .inr (.inl ⟨rfl, rfl, exec_stepIdle_eq_next he⟩)
      · exact .inr (.inr ⟨rfl, rfl, exec_stepRx_eq_next he⟩)
    · subst hd
      rw [exec_reset] at he
      cases he
      exact .inl ⟨rfl, rfl⟩

/-- A run of one step more. -/
theorem run_succ {k : Nat} {s t : State} (h : step s = .next t) :
    Host.Core.run Sys2Proof.core (k + 1) s = Host.Core.run Sys2Proof.core k t := by
  have h : Sys2Proof.core.step s = .next t := h
  simp only [Host.Core.run, h]

/-- A state that meets the invariant needs only P-1 and P-2 of the step (R113). -/
theorem State.Inv.timeOk {s : State} {now : Time} (hi : s.Inv) (hp : s.Premises now) : s.TimeOk now where
  toPremises := hp
  window := fun hr hc => by
    obtain ⟨t, ht, hb⟩ := hi.base_past hr hc
    exact le_trans hb (hp.monotonic t ht)

end Sys2Proof.Machine
end

