-- ==== Sys2Proof/Tests/Slice0.lean ====
section
/-! SUPPORT. Tests on fixed values: what the well-formedness check refuses, words written out from the table's encodings, the
spec's vectors (95_test_vectors.md), and for every statement with hypotheses a witness that meets them. -/

namespace Sys2Proof.Tests

open Sys2Proof.Machine

/-! ### What the check refuses -/

theorem test_wf_drop_of_sync : ¬ WellFormed (.rxScanDrop 0xAA#8) := by decide

theorem test_wf_split_range : ¬ WellFormed (.split 128) ∧ ¬ WellFormed (.split (-129)) := by decide

theorem test_wf_map_range : ¬ WellFormed (.map #v[0, 0, 0, 0, 0, 0, 0, 128]) := by decide

theorem test_wf_encode_range : ¬ WellFormed (.encode #v[-129, 0, 0, 0, 0, 0, 0, 0]) := by decide

theorem test_wf_trigger_idle : ¬ WellFormed (.trigger .idle 0#64) := by decide

/-! ### Words written out from the encodings of R71 and R79 -/

theorem test_decode_reset : decode ⟨.reset, 0b1111111111, 5#64⟩ = .ok .reset := by decide

theorem test_decode_stepIdle : decode ⟨.stepIdle, 0b0011111111, 5#64⟩ = .ok (.stepIdle 5#64) := by decide

theorem test_decode_stepRx : decode ⟨.stepRx, 0b0111101100, 5#64⟩ = .ok (.stepRx 0xEC#8 5#64) := by decide

theorem test_decode_poll : decode ⟨.poll, 0b0110000000, 5#64⟩ = .ok (.poll 5#64) := by decide

theorem test_decode_tchk : decode ⟨.tchk, 0b0000000001, 5#64⟩ = .ok (.tchk 5#64) := by decide

theorem test_decode_rxScanDrop : decode ⟨.rxScanDrop, 0b0101010101, 0#64⟩ = .ok (.rxScanDrop 0x55#8) := by decide

theorem test_decode_rxScanSync : decode ⟨.rxScanSync, 0b0110101010, 0#64⟩ = .ok .rxScanSync := by decide

theorem test_decode_rxAsmFirst :
    decode ⟨.rxAsmFirst, 0b0100001010, 2000#64⟩ = .ok (.rxAsmFirst 0x0A#8 2000#64) := by decide

theorem test_decode_rxAsmMid : decode ⟨.rxAsmMid, 0b0111011000, 0#64⟩ = .ok (.rxAsmMid 0xD8#8) := by decide

theorem test_decode_rxAsmLast :
    decode ⟨.rxAsmLast, 0b0100100000, 9#64⟩ = .ok (.rxAsmLast 0x20#8 9#64) := by decide

theorem test_decode_csum : decode ⟨.csum, 0x0102040810204080, 0#64⟩ =
    .ok (.csum #v[0x01#8, 0x02#8, 0x04#8, 0x08#8, 0x10#8, 0x20#8, 0x40#8, 0x80#8]) := by decide

theorem test_decode_validate : decode ⟨.validate, 0x550AEC1ED832C446B020, 0#64⟩ =
    .ok (.validate #v[0x55#8, 0x0A#8, 0xEC#8, 0x1E#8, 0xD8#8, 0x32#8, 0xC4#8, 0x46#8, 0xB0#8, 0x20#8]) := by decide

theorem test_decode_split : decode ⟨.split, 0b10000000, 0#64⟩ = .ok (.split (-128)) := by decide

theorem test_decode_map : decode ⟨.map, 0x4BC0007F8001FF02, 0#64⟩ =
    .ok (.map #v[75, -64, 0, 127, -128, 1, -1, 2]) := by decide

theorem test_decode_trigger : decode ⟨.trigger, 0b01, 7#64⟩ = .ok (.trigger .good 7#64) := by decide

theorem test_decode_encode : decode ⟨.encode, 0xAA7F8001FF0040C0AA2B, 0#64⟩ =
    .ok (.encode #v[127, -128, 1, -1, 0, 64, -64, -86]) := by decide

theorem test_decode_rejects :
    decode ⟨.trigger, 3, 0#64⟩ = .error .reservedColor ∧ decode ⟨.trigger, 0, 0#64⟩ = .error .idleColor ∧
    decode ⟨.rxScanDrop, 0x1AA, 0#64⟩ = .error .syncByte ∧
    decode ⟨.encode, 0xAA0AEC1ED832C446B021, 0#64⟩ = .error .checksumField ∧
    decode ⟨.reset, 0x0AA, 0#64⟩ = .error (.fixedBits .reset) ∧
    decode ⟨.stepRx, 0x5AA, 0#64⟩ = .error (.tooWide .stepRx) ∧
    decodeInput (inputOfTableWord 24 0) = .error (.noFormat 24) := by decide

/-- The port's words with their operand `now` (R71), and the operand words of the functions. -/
theorem test_decode_tableWords :
    decodeTableWord 16 0x3AA = some .reset ∧
    decodeTableWord 16 0x07D00155 = some (.stepRx 0x55#8 2000#64) ∧
    decodeTableWord 16 0x07D000AA = some (.stepIdle 2000#64) ∧
    decodeTableWord 16 0x400 = none ∧
    decodeTableWord 8 0xC0 = some (.split (-64)) ∧
    decodeTableWord 64 0x0102040810204080 =
      some (.csum #v[0x01#8, 0x02#8, 0x04#8, 0x08#8, 0x10#8, 0x20#8, 0x40#8, 0x80#8]) := by decide

/-! ### States and vectors of 95_test_vectors.md -/

/-- One field of the next state. -/
def fld {α : Type} (o : Host.Outcome State Fault Refusal) (f : State → α) : Option α :=
  match o with
  | .next s => some (f s)
  | .fault _ => none
  | .refused _ => none

/-- The Command Vector of V-S2, V-M21. -/
def v7 : CmdVec := #v[10, -20, 30, -40, 50, -60, 70, -80]

/-- Its frame, printed in V-S2. -/
def f7 : Frame := #v[0xAA#8, 0x0A#8, 0xEC#8, 0x1E#8, 0xD8#8, 0x32#8, 0xC4#8, 0x46#8, 0xB0#8, 0x20#8]

/-- A state in `ASSEMBLE` with `CNT` = `c`, `BASE` = 2000 and F7's bytes in `BUF` (V-R3 to V-R13). -/
def asm (c : Fin 9) : State :=
  { State.reset with rstate := .assemble, cnt := c, base := 2000#64, buf := f7, lastNow := some 2000#64 }

/-- A state with the indicator active (V-I2 to V-I7). -/
def lit (c : Color) (deadline : Time) : State :=
  { State.reset with active := true, color := c, deadline := deadline }

/-- V-X1, V-X2. -/
theorem test_reset : fld (exec .reset { asm 5 with fwd := Vector.replicate 8 9#8, color := .good })
    (fun t => (t.rstate, t.cnt, t.active, t.color)) = some (.scan, 0, false, .idle) ∧
    fld (exec .reset { asm 5 with fwd := Vector.replicate 8 9#8 })
    (fun t => (t.fwd, t.rev)) = some (Vector.replicate 8 0#8, Vector.replicate 8 0#8) := by decide

/-- V-R8, V-R9, V-R10. -/
theorem test_stepIdle_window :
    fld (exec (.stepIdle 102000#64) (asm 4)) (fun t => (t.rstate, t.cnt, t.evt)) = some (.assemble, 4, .none) ∧
    fld (exec (.stepIdle 102001#64) (asm 4)) (fun t => (t.rstate, t.cnt, t.evt, t.deadline)) =
      some (.scan, 0, .frameTimeout, 602001#64) ∧
    fld (exec (.stepIdle 9000000#64) (asm 0)) (fun t => (t.rstate, t.cnt, t.evt)) =
      some (.assemble, 0, .none) := by decide

/-- V-R11, V-R12, V-R13. -/
theorem test_stepRx_timeout_first :
    fld (exec (.stepRx 0xAA#8 102001#64) (asm 4)) (fun t => (t.rstate, t.cnt, t.evt, t.color)) =
      some (.assemble, 0, .frameTimeout, .error) ∧
    fld (exec (.stepRx 0x0A#8 102001#64) (asm 4)) (fun t => (t.rstate, t.cnt, t.evt, t.buf)) =
      some (.scan, 0, .frameTimeout, f7) ∧
    fld (exec (.stepRx 0x20#8 102001#64) (asm 8)) (fun t => (t.rstate, t.evt, t.fwd)) =
      some (.scan, .frameTimeout, Vector.replicate 8 0#8) := by decide

/-- V-I8 (V-P7): expiry and a new outcome in one step. -/
theorem test_stepRx_two_writes :
    fld (exec (.stepRx 0x20#8 10000#64) { asm 8 with active := true, color := .good, deadline := 10000#64 })
      (fun t => (t.evt, t.dwr, t.deadline, t.cmd)) =
      some (.frameOk, [.idle, .good], 510000#64, some v7) := by decide

/-- V-I2, V-I3. -/
theorem test_poll_boundary :
    fld (exec (.poll 500999#64) (lit .good 501000#64)) (fun t => (t.active, t.color, t.dwr)) =
      some (true, .good, []) ∧
    fld (exec (.poll 501000#64) (lit .good 501000#64)) (fun t => (t.active, t.color, t.dwr, t.deadline)) =
      some (false, .idle, [.idle], 501000#64) := by decide

/-- V-I6. -/
theorem test_poll_idle :
    fld (exec (.poll 900000#64) { State.reset with deadline := 501000#64 }) (fun t => (t.active, t.dwr)) =
      some (false, []) := by decide

/-- V-R8, V-R9, and V-R14. -/
theorem test_tchk :
    fld (exec (.tchk 102000#64) (asm 4)) (fun t => (t.rstate, t.cnt, t.dwr)) = some (.assemble, 4, []) ∧
    fld (exec (.tchk 102001#64) (asm 4)) (fun t => (t.rstate, t.cnt, t.dwr, t.evt)) =
      some (.scan, 0, [.error], .frameTimeout) ∧
    fld (exec (.tchk 102001#64) { asm 0 with rstate := .scan }) (fun t => (t.rstate, t.evt)) =
      some (.scan, .none) := by decide

/-- V-R1. -/
theorem test_rxScanDrop : exec (.rxScanDrop 0x55#8) State.reset = .next State.reset := rfl

/-- V-R2. -/
theorem test_rxScanSync :
    fld (exec .rxScanSync State.reset) (fun t => (t.rstate, t.cnt, t.buf[0], t.base)) =
      some (.assemble, 0, 0xAA#8, 0x5A5A5A5A5A5A5A5A#64) := by decide

/-- V-R4: a sync value after the sync byte is data. -/
theorem test_rxAsmFirst :
    fld (exec (.rxAsmFirst 0xAA#8 3000#64) (asm 0)) (fun t => (t.rstate, t.cnt, t.buf[1], t.base)) =
      some (.assemble, 1, 0xAA#8, 3000#64) := by decide

/-- V-R5, and the last index RX.ASM.MID stores to. -/
theorem test_rxAsmMid :
    fld (exec (.rxAsmMid 0x99#8) (asm 3)) (fun t => (t.rstate, t.cnt, t.buf[4], t.buf[5], t.base)) =
      some (.assemble, 4, 0x99#8, 0x32#8, 2000#64) ∧
    fld (exec (.rxAsmMid 0x99#8) (asm 7)) (fun t => (t.rstate, t.cnt, t.buf[8], t.buf[9])) =
      some (.assemble, 8, 0x99#8, 0x20#8) := by decide

/-- V-R6. -/
theorem test_rxAsmLast_ok :
    fld (exec (.rxAsmLast 0x20#8 10000#64) (asm 8)) (fun t => (t.rstate, t.cnt, t.evt, t.cmd)) =
      some (.scan, 0, .frameOk, some v7) ∧
    fld (exec (.rxAsmLast 0x20#8 10000#64) (asm 8)) (fun t => (t.fwd, t.rev)) =
      some (#v[20#8, 0#8, 60#8, 0#8, 100#8, 0#8, 140#8, 0#8],
        #v[0#8, 40#8, 0#8, 80#8, 0#8, 120#8, 0#8, 160#8]) := by decide

/-- V-R7. -/
theorem test_rxAsmLast_mismatch :
    fld (exec (.rxAsmLast 0x21#8 10000#64) (asm 8)) (fun t => (t.rstate, t.cnt, t.evt, t.cmd)) =
      some (.scan, 0, .checksumMismatch, none) ∧
    fld (exec (.rxAsmLast 0x21#8 10000#64) (asm 8)) (fun t => (t.fwd, t.dwr, t.deadline)) =
      some (Vector.replicate 8 0#8, [.error], 510000#64) := by decide

/-- V-V10, V-V12. -/
theorem test_csum :
    csumOf #v[0x01#8, 0x02#8, 0x04#8, 0x08#8, 0x10#8, 0x20#8, 0x40#8, 0x80#8] = 0xFF#8 ∧
    csumOf #v[0xAA#8, 0x0A#8, 0xEC#8, 0x1E#8, 0xD8#8, 0x32#8, 0xC4#8, 0x46#8] = 0x3A#8 := by decide

/-- V-V3, V-V4. -/
theorem test_validate :
    validateFrame #v[0xAA#8, 0x0A#8, 0xEC#8, 0x1E#8, 0xD8#8, 0x32#8, 0xC4#8, 0x46#8, 0xB0#8, 0x21#8] =
      .checksumMismatch ∧
    validateFrame #v[0xAA#8, 0xF5#8, 0x13#8, 0x1E#8, 0xD8#8, 0x32#8, 0xC4#8, 0x46#8, 0xB0#8, 0x20#8] =
      .ok #v[0xF5#8, 0x13#8, 0x1E#8, 0xD8#8, 0x32#8, 0xC4#8, 0x46#8, 0xB0#8] := by decide

/-- V-M1, V-M7, V-M14, V-M15, V-M16, V-M17. -/
theorem test_split :
    splitDuty 1 = (2#8, 0#8) ∧ splitDuty 64 = (128#8, 0#8) ∧ splitDuty 127 = (254#8, 0#8) ∧
    splitDuty (-127) = (0#8, 254#8) ∧ splitDuty (-128) = (0#8, 254#8) ∧ splitDuty 0 = (0#8, 0#8) := by decide

/-- V-M20. -/
theorem test_map :
    fld (exec (.map #v[75, -64, 0, 127, -128, 1, -1, 2]) State.reset) (fun t => (t.fwd, t.rev)) =
      some (#v[150#8, 0#8, 0#8, 254#8, 0#8, 2#8, 0#8, 4#8],
        #v[0#8, 128#8, 0#8, 0#8, 254#8, 0#8, 2#8, 0#8]) := by decide

/-- V-I4, V-I5. -/
theorem test_trigger :
    fld (exec (.trigger .error 300000#64) (lit .error 501000#64))
      (fun t => (t.active, t.color, t.deadline, t.dwr)) = some (true, .error, 800000#64, [.error]) ∧
    fld (exec (.trigger .error 400000#64) (lit .good 501000#64))
      (fun t => (t.active, t.color, t.deadline, t.dwr)) = some (true, .error, 900000#64, [.error]) := by decide

/-- V-E1, V-E3. -/
theorem test_encode :
    encodeFrame v7 = f7 ∧
    encodeFrame #v[127, -128, 1, -1, 0, 64, -64, -86] =
      #v[0xAA#8, 0x7F#8, 0x80#8, 0x01#8, 0xFF#8, 0x00#8, 0x40#8, 0xC0#8, 0xAA#8, 0x2B#8] := by decide

/-- V-E, the caller's clamp, and the line of R86. -/
theorem test_sender :
    clampCommand 200 = 127 ∧ clampCommand (-300) = -128 ∧ clampCommand 127 = 127 ∧
    assembleLine [10, -20, 30, -40, 50, -60, 70, -80] = .motorsOnly f7 ∧
    assembleLine [1, 2, 3] = .inputParseError ∧
    assembleLine [100, -100, 5, 0] = .servosOnly #v[90, -90, 5, 0] := by decide

/-- The step takes the placed word first, from reset. -/
theorem test_step_fetch :
    fld (step (State.reset.withFetchWord 16 0x03E801AA)) (fun t => (t.rstate, t.cnt, t.lastNow, t.script)) =
      some (.assemble, 0, some 1000#64, []) := by decide

/-! ### Witnesses: for every statement with hypotheses, states and operands that meet all of them -/

theorem timeOk {s : State} {now : Time} (h : (clockFits now && s.clockMonotonic now) = true) : s.TimeOk now :=
  (s.timeOk_iff now).mpr (by simpa using h)

/-- The last `now` that P-2 allows with a hold of 500000. -/
def lastTime : Time := 18446744073709051615#64

theorem premises {s : State} {now : Time} (h : (clockFits now && notAfter s.lastNow now) = true) : s.Premises now := by
  rw [Bool.and_eq_true, clockFits_iff, notAfter_iff] at h
  exact ⟨h.2, h.1⟩

theorem inv_reset : State.reset.Inv where
  scan_cnt := by decide
  assemble_sync := by decide
  one_direction := by decide
  fwd_even := by decide
  rev_even := by decide
  idle_color := by decide
  active_color := by decide
  base_past := fun h => by cases h
  deadline_hold := fun h => by cases h
  cmd_valid := by decide

/-- A state in `ASSEMBLE` with the indicator active that meets R43. -/
def asmLit (c : Fin 9) : State := { asm c with active := true, color := .good, deadline := 501000#64 }

theorem inv_asmLit (c : Fin 9) : (asmLit c).Inv where
  scan_cnt := fun h => by cases h
  assemble_sync := fun _ => rfl
  one_direction := inv_reset.one_direction
  fwd_even := inv_reset.fwd_even
  rev_even := inv_reset.rev_even
  idle_color := fun h => by cases h
  active_color := fun _ => .inl rfl
  base_past := fun _ _ => ⟨_, rfl, le_refl _⟩
  deadline_hold := fun _ => ⟨2000#64, rfl, (by decide : 500000 ≤ (501000#64).toNat),
    (by decide : (501000#64).toNat ≤ (2000#64).toNat + 500000)⟩
  cmd_valid := inv_reset.cmd_valid

theorem witness_ResetPutsRegistersInResetState :
    ({ asm 5 with script := [.stim 0x3AA#10 7#64] } : State).script = .stim 0x3AA#10 7#64 :: [] ∧
    (0x3AA#10).getLsbD 9 = true := by decide

theorem witness_ScanDropChangesNothing : State.reset.rstate = .scan ∧ 0x55#8 ≠ 0xAA#8 := by decide

theorem witness_ScanSyncOpensAssembly : State.reset.rstate = .scan := rfl

/-- At once, and long after the window's length. -/
theorem witness_AsmFirstRecordsBase :
    (asm 0).rstate = .assemble ∧ (asm 0).cnt = 0 ∧ (asm 0).TimeOk 2000#64 ∧ (asm 0).TimeOk lastTime :=
  ⟨rfl, rfl, timeOk (by decide), timeOk (by decide)⟩

/-- `CNT` at both ends of its range. -/
theorem witness_AsmMidStoresByte :
    ((asm 1).rstate = .assemble ∧ 1 ≤ (asm 1).cnt.val ∧ (asm 1).cnt.val ≤ 7) ∧
    ((asm 7).rstate = .assemble ∧ 1 ≤ (asm 7).cnt.val ∧ (asm 7).cnt.val ≤ 7) := by decide

/-- A matching and a differing ninth byte. -/
theorem witness_AsmLastValidatesAndActs :
    (asm 8).rstate = .assemble ∧ (asm 8).cnt = 8 ∧ (asm 8).TimeOk 10000#64 ∧
    csumOf (payloadOf (asm 8).buf) = 0x20#8 ∧ csumOf (payloadOf (asm 8).buf) ≠ 0x21#8 :=
  ⟨rfl, rfl, timeOk (by decide), by decide, by decide⟩

/-- 100001 and 100000 after `BASE`, `CNT` = 0, and `SCAN`. -/
theorem witness_TchkRaisesTimeoutExactlyWhenExceeded :
    ((asm 1).TimeOk 102001#64 ∧ (asm 1).TimedOut 102001#64) ∧
    ((asm 8).TimeOk 102000#64 ∧ ¬ (asm 8).TimedOut 102000#64) ∧
    ((asm 0).TimeOk 102001#64 ∧ ¬ (asm 0).TimedOut 102001#64) ∧
    (State.reset.TimeOk 102001#64 ∧ ¬ State.reset.TimedOut 102001#64) :=
  ⟨⟨timeOk (by decide), by unfold State.TimedOut; decide⟩, ⟨timeOk (by decide), by unfold State.TimedOut; decide⟩,
    ⟨timeOk (by decide), by unfold State.TimedOut; decide⟩, ⟨timeOk (by decide), by unfold State.TimedOut; decide⟩⟩

/-- Both sides of the boundary. -/
theorem witness_WindowBoundaryIsStrict :
    (asm 8).rstate = .assemble ∧ (asm 8).cnt = 8 ∧ csumOf (payloadOf (asm 8).buf) = 0x20#8 ∧
    ((asm 8).TimeOk 102000#64 ∧ (102000#64).toNat - (asm 8).base.toNat = 100000) ∧
    ((asm 8).TimeOk 102001#64 ∧ (102001#64).toNat - (asm 8).base.toNat = 100001) :=
  ⟨rfl, rfl, by decide, ⟨timeOk (by decide), by decide⟩, ⟨timeOk (by decide), by decide⟩⟩

/-- Any time from 0 to the last one P-2 allows. -/
theorem witness_TriggerShowsColorAndRestartsHold : State.reset.TimeOk 0#64 ∧ State.reset.TimeOk lastTime :=
  ⟨timeOk (by decide), timeOk (by decide)⟩

/-- At the deadline, one microsecond before it, and with the indicator idle. -/
theorem witness_PollExpiresAtDeadline :
    ((lit .good 501000#64).TimeOk 501000#64 ∧ (lit .good 501000#64).Expires 501000#64) ∧
    ((lit .good 501000#64).TimeOk 500999#64 ∧ ¬ (lit .good 501000#64).Expires 500999#64) ∧
    (State.reset.TimeOk lastTime ∧ ¬ State.reset.Expires lastTime) :=
  ⟨⟨timeOk (by decide), by unfold State.Expires; decide⟩, ⟨timeOk (by decide), by unfold State.Expires; decide⟩,
    ⟨timeOk (by decide), by unfold State.Expires; decide⟩⟩

/-- V-I4: polls at 799999 and at 800000, with polls before them and between the triggers. -/
theorem witness_SecondTriggerRestartsHold :
    State.reset.TimeOk 1000#64 ∧ (300000#64).toNat < (1000#64).toNat + 500000 ∧
    ((1000#64 :: [2000#64] ++ 300000#64 :: [501000#64] ++ [799999#64] : List Time).Pairwise
      fun a b => a.toNat ≤ b.toNat) ∧
    ((1000#64 :: [2000#64] ++ 300000#64 :: [501000#64] ++ [800000#64] : List Time).Pairwise
      fun a b => a.toNat ≤ b.toNat) ∧
    (799999#64).toNat < (300000#64).toNat + 500000 ∧ (800000#64).toNat ≥ (300000#64).toNat + 500000 ∧
    (800000#64).toNat + 500000 < 2 ^ 64 :=
  ⟨timeOk (by decide), by decide, by decide, by decide, by decide, by decide, by decide⟩

theorem witness_PollAfterExpiryDoesNothing :
    (lit .good 501000#64).TimeOk 501000#64 ∧ (501000#64).toNat ≤ (501000#64).toNat ∧
    (501000#64).toNat + 500000 < 2 ^ 64 ∧ (lit .good 501000#64).active = true ∧
    (501000#64).toNat ≥ (lit .good 501000#64).deadline.toNat :=
  ⟨timeOk (by decide), by decide, by decide, rfl, by decide⟩

/-- Each clause at the ends of its range. -/
theorem witness_SplitGivesSaturatedDuties :
    CmdInRange (-128) ∧ CmdInRange (-1) ∧ CmdInRange 0 ∧ CmdInRange 1 ∧ CmdInRange 127 := by decide

theorem witness_SplitArithmeticLaws :
    ((-128 : Int) ≤ -128 ∧ (-128 : Int) ≤ 127) ∧ ((-127 : Int) ≤ 127 ∧ (127 : Int) ≤ 127) ∧
    ((-128 : Int) ≤ 0 ∧ (0 : Int) ≤ 127 ∧ (0 : Int) ≤ 0) ∧ ((-128 : Int) ≤ 0 ∧ (0 : Int) ≤ 127) := by decide

/-- V-M20 has a lane for each clause, and both ends of the range. -/
theorem witness_MapWritesEveryChannel : CmdVecInRange #v[75, -64, 0, 127, -128, 1, -1, 2] := by decide

/-- V-M21 and then V-M23. -/
theorem witness_MapIsHistoryFree :
    (∀ v ∈ [v7], CmdVecInRange v) ∧ CmdVecInRange #v[-11, 19, 30, -40, 50, -60, 70, -80] := by decide

/-- The last step of V-P1, and a RESET that clears duties. -/
theorem witness_DutiesMoveOnlyOnAcceptedFrame :
    fld (step { asm 8 with script := [byteInput 0x20#8 10000#64] }) (fun t => t.fwd[0]) = some 20#8 ∧
    (asm 8).fwd[0] = 0#8 ∧
    fld (step { asm 8 with fwd := Vector.replicate 8 2#8, script := [.stim 0x200#10 0#64] }) (fun t => t.fwd[0]) =
      some 0#8 := by decide

/-- V-V1 and V-V3: one frame for each clause. -/
theorem witness_ValidateAcceptsExactlyMatchingChecksum :
    csumOf (payloadOf f7) = f7[9] ∧ csumOf (payloadOf (f7.set 9 0x21#8)) ≠ (f7.set 9 0x21#8)[9] := by decide

/-- The first and the last byte that may be changed. -/
theorem witness_SingleByteCorruptionIsDetected :
    validateFrame f7 = .ok (payloadOf f7) ∧ (1 : Fin 10) ≠ 0 ∧ (9 : Fin 10) ≠ 0 ∧ 1#8 ≠ 0#8 := by decide

/-- V-V4 and V-V6, and V-V4's frame as one whose differences from V-V1 XOR to 0. -/
theorem witness_CancellingCorruptionIsAccepted :
    validateFrame f7 = .ok (payloadOf f7) ∧
    csumOf (payloadOf f7) ^^^ f7[9] ^^^
      (csumOf #v[0xF5#8, 0x13#8, 0x1E#8, 0xD8#8, 0x32#8, 0xC4#8, 0x46#8, 0xB0#8] ^^^ 0x20#8) = 0#8 ∧
    ((1 : Fin 10) ≠ 0 ∧ (2 : Fin 10) ≠ 0 ∧ (1 : Fin 10) ≠ 2) ∧
    ((1 : Fin 10) ≠ 0 ∧ (9 : Fin 10) ≠ 0 ∧ (1 : Fin 10) ≠ 9) := by decide

/-- V-E3 has 127, -128, -1 and 0. -/
theorem witness_EncodeBuildsFrame : CmdVecInRange #v[127, -128, 1, -1, 0, 64, -64, -86] := by decide

theorem witness_SignedByteReadingsAreInverse :
    CmdInRange (-128) ∧ CmdInRange (-1) ∧ CmdInRange 0 ∧ CmdInRange 127 ∧
    (0x7F#8).toNat < 128 ∧ 128 ≤ (0x80#8).toNat := by decide

theorem witness_LineOfEightTokensIsClampedAndEncoded :
    ((-129 : Int) < -128 ∧ (128 : Int) > 127 ∧ (-128 : Int) ≤ -128 ∧ (-128 : Int) ≤ 127) ∧
    (([] : List Int).length ≠ 4 ∧ ([] : List Int).length ≠ 8 ∧ ([] : List Int).length ≠ 12) ∧
    ([1, 2, 3, 4, 5, 6, 7, 8, 9] : List Int).length = 9 := by decide

/-- F7 a byte a millisecond, all at one time, and with the window used to its last microsecond. -/
def f7Times : Vector Time 10 :=
  #v[1000#64, 2000#64, 3000#64, 4000#64, 5000#64, 6000#64, 7000#64, 8000#64, 9000#64, 102000#64]

theorem witness_EncodedFrameIsReceived :
    CmdVecInRange v7 ∧ State.reset.rstate = .scan ∧
    (∀ i j : Fin 10, i ≤ j → f7Times[i].toNat ≤ f7Times[j].toNat) ∧
    notAfter State.reset.lastNow f7Times[0] = true ∧
    f7Times[9].toNat + 500000 < 2 ^ 64 ∧ f7Times[9].toNat - f7Times[1].toNat ≤ 100000 ∧
    ({ State.reset with
       script := (List.finRange 10).map fun i => byteInput (encodeFrame v7)[i] f7Times[i] } : State).script =
      (List.finRange 10).map (fun i => byteInput (encodeFrame v7)[i] f7Times[i]) ++ [] :=
  ⟨by decide, rfl, by decide, by decide, by decide, by decide, (List.append_nil _).symm⟩

/-- An input that decodes, a table word that decodes, no input, and an input that does not decode. -/
theorem witness_StepRunsDecodedOperation :
    (({ State.reset with script := [byteInput 0xAA#8 5#64] } : State).script = byteInput 0xAA#8 5#64 :: [] ∧
      decodeInput (byteInput 0xAA#8 5#64) = .ok (.stepRx 0xAA#8 5#64)) ∧
    decodeTableWord 16 0x1AA = some (.stepRx 0xAA#8 0#64) ∧ State.reset.script = [] ∧
    (({ State.reset with script := [.malformed 24 0] } : State).script = .malformed 24 0 :: [] ∧
      decodeInput (.malformed 24 0) = .error (.noFormat 24)) := by decide

theorem witness_StimulusWordFields :
    (0x200#10).getLsbD 9 = true ∧ ((0x0FF#10).getLsbD 9 = false ∧ (0x0FF#10).getLsbD 8 = false) ∧
    ((0x100#10).getLsbD 9 = false ∧ (0x100#10).getLsbD 8 = true) := by decide

/-- With the window running, at `BASE` itself and at the last time P-2 allows. -/
theorem witness_StepAgreesWithReference : (asm 8).TimeOk 2000#64 ∧ (asm 8).TimeOk lastTime :=
  ⟨timeOk (by decide), timeOk (by decide)⟩

/-- One microsecond after the window, with `CNT` at both ends. -/
theorem witness_TimeoutIsTakenBeforeByte :
    ((asm 1).TimeOk 102001#64 ∧ (asm 1).TimedOut 102001#64) ∧ ((asm 8).TimeOk 102001#64 ∧ (asm 8).TimedOut 102001#64) :=
  ⟨⟨timeOk (by decide), by unfold State.TimedOut; decide⟩, ⟨timeOk (by decide), by unfold State.TimedOut; decide⟩⟩

/-- A state for each row of the table: `SCAN`, `CNT` = 0, 1, 7, 8, inside the window and beyond it. -/
theorem witness_ReaderTransitionTable :
    (State.reset.Inv ∧ State.reset.Premises 0#64) ∧
    ((asmLit 0).Inv ∧ (asmLit 0).Premises 102001#64) ∧
    ((asmLit 1).Inv ∧ (asmLit 1).Premises 102000#64 ∧ ¬ (asmLit 1).TimedOut 102000#64) ∧
    ((asmLit 7).Inv ∧ (asmLit 7).Premises 102000#64 ∧ ¬ (asmLit 7).TimedOut 102000#64) ∧
    ((asmLit 8).Inv ∧ (asmLit 8).Premises 102000#64 ∧ ¬ (asmLit 8).TimedOut 102000#64) ∧
    ((asmLit 8).Inv ∧ (asmLit 8).Premises 102001#64 ∧ (asmLit 8).TimedOut 102001#64) :=
  ⟨⟨inv_reset, premises (by decide)⟩, ⟨inv_asmLit 0, premises (by decide)⟩,
    ⟨inv_asmLit 1, premises (by decide), by unfold State.TimedOut; decide⟩,
    ⟨inv_asmLit 7, premises (by decide), by unfold State.TimedOut; decide⟩,
    ⟨inv_asmLit 8, premises (by decide), by unfold State.TimedOut; decide⟩,
    ⟨inv_asmLit 8, premises (by decide), by unfold State.TimedOut; decide⟩⟩

/-- Expiring and not expiring, each with and without an event. -/
theorem witness_IndicatorTransitionTable :
    ((lit .good 501000#64).TimeOk 500999#64 ∧ ¬ (lit .good 501000#64).Expires 500999#64 ∧
      fld (exec (.stepIdle 500999#64) (lit .good 501000#64)) (fun t => t.evt) = some .none) ∧
    ((lit .good 501000#64).TimeOk 501000#64 ∧ (lit .good 501000#64).Expires 501000#64 ∧
      fld (exec (.stepIdle 501000#64) (lit .good 501000#64)) (fun t => t.evt) = some .none) ∧
    ((asmLit 8).TimeOk 10000#64 ∧ ¬ (asmLit 8).Expires 10000#64 ∧
      fld (exec (.stepRx 0x20#8 10000#64) (asmLit 8)) (fun t => t.evt) = some .frameOk) ∧
    ((asmLit 8).TimeOk 501000#64 ∧ (asmLit 8).Expires 501000#64 ∧
      fld (exec (.stepIdle 501000#64) (asmLit 8)) (fun t => t.evt) = some .frameTimeout) :=
  ⟨⟨timeOk (by decide), by unfold State.Expires; decide, by decide⟩,
    ⟨timeOk (by decide), by unfold State.Expires; decide, by decide⟩,
    ⟨timeOk (by decide), by unfold State.Expires; decide, by decide⟩,
    ⟨timeOk (by decide), by unfold State.Expires; decide, by decide⟩⟩

/-- The start of V-P4: a sync byte, then silence far beyond the window, then a byte. -/
def lone : State :=
  { asm 0 with script := [5000#64, 9000000#64].map idleInput ++ [byteInput 0xAA#8 9000000#64] }

theorem witness_LoneSyncNeverTimesOut :
    lone.rstate = .assemble ∧ lone.cnt = 0 ∧ lone.evt = .none ∧
    (([5000#64, 9000000#64] ++ [9000000#64] : List Time).Pairwise fun x y => x.toNat ≤ y.toNat) ∧
    (9000000#64).toNat + 500000 < 2 ^ 64 ∧
    (notAfter lone.lastNow 5000#64 = true ∧ notAfter lone.lastNow 9000000#64 = true) ∧
    lone.script = [5000#64, 9000000#64].map idleInput ++ [byteInput 0xAA#8 9000000#64] :=
  ⟨rfl, rfl, rfl, by decide, by decide, by decide, by simp only [lone]⟩

/-- A sync byte in `SCAN`, in the step of a time-out, and inside an assembly, where it is data. -/
theorem witness_OneOutcomePerAcceptedSync :
    (State.reset.TimeOk 0#64 ∧ State.reset.rstate = .scan) ∧
    ((asm 8).TimeOk 102001#64 ∧ (asm 8).TimedOut 102001#64) ∧
    ((asm 8).TimeOk 102000#64 ∧ ¬ ((asm 8).rstate = .scan ∨ (asm 8).TimedOut 102000#64)) :=
  ⟨⟨timeOk (by decide), rfl⟩, ⟨timeOk (by decide), by unfold State.TimedOut; decide⟩,
    ⟨timeOk (by decide), by unfold State.TimedOut; decide⟩⟩

theorem witness_BaseMovesOnlyOnFirstByte :
    fld (step { asm 0 with script := [byteInput 0x0A#8 3000#64] }) (fun t => t.base) = some 3000#64 ∧
    (asm 0).base ≠ 3000#64 := by decide

theorem witness_EveryStepKeepsInvariant :
    (asmLit 8).Inv ∧
    State.Inv { asmLit 8 with script := [byteInput 0x20#8 10000#64] } ∧
    (fld (step { asmLit 8 with script := [byteInput 0x20#8 10000#64] }) (fun t => t.evt)) = some .frameOk :=
  ⟨inv_asmLit 8, ⟨(fun h => by cases h), fun _ => rfl, inv_reset.one_direction, inv_reset.fwd_even, inv_reset.rev_even,
    (fun h => by cases h), fun _ => .inl rfl, fun _ _ => ⟨_, rfl, le_refl _⟩, fun _ => ⟨2000#64, rfl, (by decide : 500000 ≤ (501000#64).toNat),
    (by decide : (501000#64).toNat ≤ (2000#64).toNat + 500000)⟩,
    inv_reset.cmd_valid⟩, by decide⟩

theorem witness_BlockNeverStops :
    (State.reset.withInput (byteInput 0xAA#8 0#64)).script = .stim 0x1AA#10 0#64 :: [] ∧
    State.Inv (State.reset.withInput (byteInput 0xAA#8 0#64)) ∧
    State.Premises (State.reset.withInput (byteInput 0xAA#8 0#64)) 0#64 :=
  ⟨by decide, ⟨fun _ => rfl, (fun h => by cases h), inv_reset.one_direction, inv_reset.fwd_even, inv_reset.rev_even,
    fun _ => rfl, (fun h => by cases h), (fun h => by cases h), (fun h => by cases h), inv_reset.cmd_valid⟩, premises (by decide)⟩

/-- Two states that differ in every register without a meaning. -/
theorem witness_MeaninglessRegistersHaveNoEffect :
    State.reset.Agree { State.reset with buf := f7, base := 1#64, deadline := 2#64, freeIdx := 9 } ∧
    State.reset ≠ { State.reset with buf := f7, base := 1#64, deadline := 2#64, freeIdx := 9 } :=
  ⟨⟨rfl, rfl, rfl, rfl, rfl, rfl, rfl, rfl, rfl, rfl, rfl, rfl, (fun h => by cases h), (fun h => by cases h),
    (fun h => by cases h)⟩, by decide⟩

theorem witness_DecodeReadsEncodeBack :
    WellFormed (.split (-128)) ∧ WellFormed (.map v7) ∧ WellFormed (.trigger .error 0#64) ∧
    WellFormed (.rxScanDrop 0x55#8) ∧ WellFormed (.encode v7) ∧
    stimOf (.stepRx 0xFF#8 3#64) = some (.stim 0x1FF#10 3#64) := by decide

/-- The first time that breaks P-2, a clock one microsecond behind, and a time one microsecond before `BASE`. -/
theorem witness_BrokenClockPremiseIsRefused :
    (Instr.poll 1999#64 ∈ [Instr.stepIdle 1999#64, .stepRx 0#8 1999#64, .poll 1999#64, .tchk 1999#64,
      .trigger .good 1999#64]) ∧
    ((asm 0).rstate = .assemble ∧ (asm 0).cnt = 0) ∧ ((asm 8).rstate = .assemble ∧ (asm 8).cnt = 8) ∧
    2 ^ 64 ≤ (18446744073709051616#64).toNat + 500000 ∧ (1999#64).toNat + 500000 < 2 ^ 64 ∧
    ((asm 4).lastNow = some 2000#64 ∧ (1999#64).toNat < (2000#64).toNat) ∧
    ({ asm 8 with lastNow := none } : State).lastNow = none ∧ (1999#64).toNat < (asm 8).base.toNat := by decide

theorem witness_UnselectedRxOperationIsRefused :
    (asm 0).rstate = .assemble ∧ State.reset.rstate = .scan ∧ 1 ≤ (asm 1).cnt.val ∧ (asm 0).cnt = 0 ∧
    (asm 8).cnt = 8 ∧ (asm 7).cnt.val ≤ 7 := by decide

theorem witness_CommandOutsideDomainIsRefused :
    (-129 : Int) < -128 ∧ (127 : Int) < 128 ∧
    (∃ k : Fin 8, (#v[0, 0, 0, 0, 0, 0, 0, 128] : CmdVec)[k] < -128 ∨
      127 < (#v[0, 0, 0, 0, 0, 0, 0, 128] : CmdVec)[k]) := by decide

end Sys2Proof.Tests
end

section
/-! SUPPORT. Two obligations of the scope (R9, R11): the signed readings of a byte, and what one step runs. -/

namespace Sys2Proof.Machine

/-! ### The two halves of the signed reading (R9) -/

theorem s8_of_lt {b : Byte} (h : b.toNat < 128) : s8 b = b.toNat := if_pos h

theorem s8_of_le {b : Byte} (h : 128 ≤ b.toNat) : s8 b = (b.toNat : Int) - 256 := if_neg (not_lt.mpr h)

/-- Settles O25: `u8` by the sign of its argument, `s8` by the byte's top half, and the two inverse laws. -/
theorem signedByteReadingsAreInverse : Obligations.SignedByteReadingsAreInverse := by
  unfold Obligations.SignedByteReadingsAreInverse
  constructor
  · intro v hmin hmax
    have hr : CmdInRange v := ⟨hmin, hmax⟩
    exact ⟨u8_toNat_of_nonneg hr, u8_toNat_of_neg hr, s8_u8 hr⟩
  · exact fun b => ⟨s8_of_lt, s8_of_le, u8_s8 b⟩

/-! ### What a step answers, by its next input (R11) -/

theorem step_nil {s : State} (h : s.script = []) : step s = .refused .noStimulus := by
  have hf : s.fetch = none := by simp only [State.fetch, h]
  simp only [step, hf]

theorem step_undecodable {s : State} {inp : Input} {rest : List Input} {e : Reject}
    (h : s.script = inp :: rest) (hd : decodeInput inp = .error e) :
    step s = .refused (.undecodable e) := by
  simp only [step, State.fetch_cons h, hd]

/-- A table word decodes exactly to what the input it stands for decodes to (log 10). -/
theorem decodeTableWord_eq_some {nbits w : Nat} {i : Instr} :
    decodeTableWord nbits w = some i ↔ decodeInput (inputOfTableWord nbits w) = .ok i := by
  unfold decodeTableWord
  cases decodeInput (inputOfTableWord nbits w) <;> simp

/-- Settles O29: `step_cons` for an input that decodes, which a placed table word is too; the two refusals otherwise. -/
theorem stepRunsDecodedOperation : Obligations.StepRunsDecodedOperation := by
  unfold Obligations.StepRunsDecodedOperation
  refine ⟨fun s inp rest i => step_cons, ?_, fun s => step_nil, fun s inp rest e => step_undecodable⟩
  intro s nbits w i hd
  have hscript : (s.withFetchWord nbits w).script = inputOfTableWord nbits w :: s.script := rfl
  exact step_cons hscript (decodeTableWord_eq_some.mp hd)

end Sys2Proof.Machine
end

section
/-! SUPPORT. The obligations about the state's registers (R20 to R43): the invariants of R43 hold at reset and every step
keeps them; what has no meaning has no effect; which steps write the duty registers and `BASE`. -/

namespace Sys2Proof.Machine

/-! ### The invariants of R43 at reset -/

/-- `BUF`, `BASE` and `DEADLINE`, which have no reset value (R213), play no part. -/
theorem State.Inv.of_reset_values {s : State} (hr : s.rstate = .scan) (hc : s.cnt = 0)
    (ha : s.active = false) (hcol : s.color = .idle) (hf : s.fwd = Vector.replicate 8 0#8)
    (hv : s.rev = Vector.replicate 8 0#8) (he : s.evt = .none) (hcmd : s.cmd = none) : s.Inv where
  scan_cnt := fun _ => hc
  assemble_sync := by simp [hr]
  one_direction := by simp [hf]
  fwd_even := by simp [hf]
  rev_even := by simp [hv]
  idle_color := fun _ => hcol
  active_color := by simp [ha]
  base_past := by simp [hr]
  deadline_hold := by simp [ha]
  cmd_valid := by simp [he, hcmd]

/-- Settles O2: the reset column of R20 read off the state; it meets R43 by `State.Inv.of_reset_values`. -/
theorem resetStateMeetsInvariant : Obligations.ResetStateMeetsInvariant := by
  unfold Obligations.ResetStateMeetsInvariant
  have hduties : ∀ k : Fin 8, State.reset.fwd[k] = 0#8 ∧ State.reset.rev[k] = 0#8 := by decide
  exact ⟨rfl, rfl, rfl, rfl, hduties, rfl, rfl, .of_reset_values rfl rfl rfl rfl rfl rfl rfl rfl⟩

/-! ### Each part of a step keeps the invariants of R43 -/

section
variable {s : State} {now : Time}

/-- Under the clock premises the readings of I-8 and I-9 stay in the past. -/
theorem State.Inv.record (hi : s.Inv) (ht : s.TimeOk now) : State.Inv { s with lastNow := some now } :=
  { hi with
    base_past := fun hr hc => ⟨now, rfl, ht.window hr hc⟩
    deadline_hold := fun ha => by
      obtain ⟨t, hlast, hlow, hhigh⟩ := hi.deadline_hold ha
      exact ⟨now, rfl, hlow, hhigh.trans (Nat.add_le_add_right (ht.monotonic t hlast) _)⟩ }

theorem State.Inv.setReader_scan (hi : s.Inv) : (s.setReader .scan 0).Inv :=
  { hi with scan_cnt := fun _ => rfl, assemble_sync := nofun, base_past := nofun }

theorem State.Inv.storeByte (hi : s.Inv) (b : Byte) : (s.storeByte b).Inv :=
  { hi with assemble_sync := fun hr => by simpa using hi.assemble_sync hr }

theorem State.Inv.mapDuties (hi : s.Inv) (cmd : CmdVec) : (s.mapDuties cmd).Inv :=
  { hi with
    one_direction := fun k => by simpa using splitDuty_one_direction cmd[k]
    fwd_even := fun k => by simpa using splitDuty_fwd_even cmd[k]
    rev_even := fun k => by simpa using splitDuty_rev_even cmd[k] }

theorem State.Inv.showColor (hi : s.Inv) (hlast : s.lastNow = some now)
    (hfits : now.toNat + 500000 < 2 ^ 64) {c : Color} (hc : c = .good ∨ c = .error) :
    (s.showColor c now).Inv :=
  { hi with
    idle_color := nofun
    active_color := fun _ => hc
    deadline_hold := fun _ => ⟨now, hlast, by simp [holdUntil_toNat hfits]⟩ }

theorem State.Inv.raiseFailure (hi : s.Inv) (hlast : s.lastNow = some now)
    (hfits : now.toNat + 500000 < 2 ^ 64) (hcmd : s.cmd = none) (f : Failure) :
    (s.raiseFailure f now).Inv :=
  { hi.setReader_scan.showColor hlast hfits (.inr rfl) with
    cmd_valid := by cases f <;> simp [failureEvt, hcmd] }

theorem State.Inv.acceptFrame (hi : s.Inv) (hlast : s.lastNow = some now)
    (hfits : now.toNat + 500000 < 2 ^ 64) (p : Payload) : (s.acceptFrame p now).Inv :=
  { (hi.mapDuties (commandsOf p)).showColor hlast hfits (.inl rfl) with cmd_valid := by simp }

theorem State.Inv.polled (hi : s.Inv) (now : Time) : (s.beginStep.pollAt now).Inv := by
  rcases s.polled_cases now with ⟨_, e⟩ | ⟨_, e⟩ <;> rw [e]
  · exact { hi with
      idle_color := fun _ => rfl, active_color := nofun, deadline_hold := nofun, cmd_valid := by simp }
  · exact { hi with cmd_valid := by simp }

theorem State.Inv.housekeep (hi : s.Inv) (hlast : s.lastNow = some now)
    (hfits : now.toNat + 500000 < 2 ^ 64) : (s.housekeep now).Inv := by
  obtain ⟨_, _, _, _, hl, _, hcmd⟩ := s.polled_fields now
  rcases s.housekeep_cases now with ⟨_, e⟩ | ⟨_, e⟩ <;> rw [e]
  · exact (hi.polled now).raiseFailure (hl.trans hlast) hfits hcmd _
  · exact hi.polled now

/-- A step reaches its RX operation with `CMD` empty (R174). -/
theorem State.housekeep_cmd (s : State) (now : Time) : (s.housekeep now).cmd = none := by
  obtain ⟨_, _, _, _, _, _, hcmd⟩ := s.polled_fields now
  rcases s.housekeep_cases now with ⟨_, e⟩ | ⟨_, e⟩ <;> rw [e] <;> exact hcmd

theorem State.Inv.acceptSync (hi : s.Inv) : s.acceptSync.Inv :=
  { hi with
    scan_cnt := nofun
    assemble_sync := fun _ => by simp [Config.sync]
    base_past := fun _ hc => by simp at hc }

/-- I-8 begins here: `BASE` is the reading just recorded (R104). -/
theorem State.Inv.takeFirst (hi : s.Inv) (hlast : s.lastNow = some now) (hr : s.rstate = .assemble)
    (b : Byte) : (s.takeFirst b now).Inv :=
  { hi.storeByte b with
    scan_cnt := by simp [hr]
    base_past := fun _ _ => ⟨now, hlast, le_rfl⟩ }

theorem State.Inv.takeMid (hi : s.Inv) (hr : s.rstate = .assemble) (hc : 1 ≤ s.cnt.val) (b : Byte) :
    (s.takeMid b).Inv :=
  { hi.storeByte b with
    scan_cnt := by simp [hr]
    base_past := fun _ _ => hi.base_past hr hc }

theorem State.Inv.takeLast (hi : s.Inv) (hlast : s.lastNow = some now)
    (hfits : now.toNat + 500000 < 2 ^ 64) (hcmd : s.cmd = none) (b : Byte) : (s.takeLast b now).Inv := by
  rcases s.takeLast_cases b now with ⟨p, _, e⟩ | ⟨_, e⟩ <;> rw [e]
  · exact ((hi.storeByte b).acceptFrame hlast hfits p).setReader_scan
  · exact ((hi.storeByte b).raiseFailure hlast hfits hcmd _).setReader_scan

theorem State.Inv.receive (hi : s.Inv) (hlast : s.lastNow = some now)
    (hfits : now.toNat + 500000 < 2 ^ 64) (hcmd : s.cmd = none) (b : Byte) : (s.receive b now).Inv := by
  rcases s.receive_cases b now with ⟨_, _, e⟩ | ⟨_, _, e⟩ | ⟨hr, _, e⟩ | ⟨hr, hc, _, e⟩ | ⟨_, _, e⟩ <;> rw [e]
  · exact hi.acceptSync
  · exact hi
  · exact hi.takeFirst hlast hr b
  · exact hi.takeMid hr hc b
  · exact hi.takeLast hlast hfits hcmd b

end

/-- Settles O40: each part of a step keeps the invariants, along the four kinds of step. -/
theorem everyStepKeepsInvariant : Obligations.EveryStepKeepsInvariant := by
  unfold Obligations.EveryStepKeepsInvariant
  intro s t hi h
  have hrest (rest : List Input) : State.Inv { s with script := rest } := { hi with }
  obtain ⟨r, rest, rfl⟩ | ⟨word, now, rest, _, ⟨_, rfl⟩ | ⟨_, _, ht, rfl⟩ | ⟨_, _, ht, rfl⟩⟩ := step_cases h
  · exact { hi with }
  · exact .of_reset_values rfl rfl rfl rfl rfl rfl rfl rfl
  · exact ((hrest rest).record ht).housekeep rfl ht.fits
  · obtain ⟨_, _, _, _, hlast⟩ :=
      State.housekeep_frame { s with script := rest, lastNow := some now } now
    exact (((hrest rest).record ht).housekeep rfl ht.fits).receive hlast ht.fits
      (State.housekeep_cmd _ now) _

/-! ### What has no meaning has no effect (R22, R28, R42, R213) -/

theorem nextCnt_le (c : Fin 9) : (nextCnt c).val ≤ c.val + 1 := by
  unfold nextCnt
  split <;> simp

/-- VALIDATE does not examine byte 0 (R132). -/
theorem validateFrame_congr {f g : Frame} (h : ∀ i : Fin 10, 1 ≤ i.val → f[i] = g[i]) :
    validateFrame f = validateFrame g := by
  have hp : payloadOf f = payloadOf g := Vector.ext fun k hk => by
    simpa using h ⟨k + 1, by omega⟩ (Nat.le_add_left 1 k)
  have h9 : f[9] = g[9] := h 9 (by decide)
  simp only [validateFrame, hp, h9]

/-- Next states that agree, or the same refusal. -/
inductive OutcomesAgree :
    Host.Outcome State Fault Refusal → Host.Outcome State Fault Refusal → Prop
  | next {s t : State} (h : s.Agree t) : OutcomesAgree (.next s) (.next t)
  | refused (r : Refusal) : OutcomesAgree (.refused r) (.refused r)

theorem OutcomesAgree.ite {p : Prop} [Decidable p] {o o' : Host.Outcome State Fault Refusal}
    (h : OutcomesAgree o o') (r : Refusal) :
    OutcomesAgree (if p then o else .refused r) (if p then o' else .refused r) := by
  split
  · exact h
  · exact .refused r

theorem OutcomesAgree.exists_next {o : Host.Outcome State Fault Refusal} {s : State}
    (h : OutcomesAgree (.next s) o) : ∃ t, o = .next t ∧ s.Agree t := by
  cases h with
  | next h => exact ⟨_, rfl, h⟩

theorem OutcomesAgree.eq_refused {o : Host.Outcome State Fault Refusal} {r : Refusal}
    (h : OutcomesAgree (.refused r) o) : o = .refused r := by
  cases h
  rfl

section
variable {s t : State}

/-! The conditions an operation tests are the same in both states. -/

theorem State.Agree.expires (h : s.Agree t) {now : Time} (he : s.Expires now) : t.Expires now := by
  obtain ⟨ha, hd⟩ := he
  exact ⟨h.active ▸ ha, h.deadline ha ▸ hd⟩

theorem State.Agree.timedOut (h : s.Agree t) {now : Time} (ht : s.TimedOut now) : t.TimedOut now := by
  obtain ⟨hr, hc, hw⟩ := ht
  exact ⟨h.rstate ▸ hr, h.cnt ▸ hc, h.base hr hc ▸ hw⟩

theorem State.Agree.timeOk (h : s.Agree t) {now : Time} (ho : s.TimeOk now) : t.TimeOk now where
  monotonic := h.lastNow ▸ ho.monotonic
  fits := ho.fits
  window := fun hr hc => by
    have hr' := h.rstate.trans hr
    have hc' : 1 ≤ s.cnt.val := h.cnt ▸ hc
    exact h.base hr' hc' ▸ ho.window hr' hc'

/-! The updates of the state keep the agreement. -/

theorem State.Agree.record (h : s.Agree t) (now : Time) :
    State.Agree { s with lastNow := some now } { t with lastNow := some now } :=
  { h with lastNow := rfl }

theorem State.Agree.setReader_scan (h : s.Agree t) : (s.setReader .scan 0).Agree (t.setReader .scan 0) :=
  { h with rstate := rfl, cnt := rfl, base := nofun, buf := nofun }

theorem State.Agree.showColor (h : s.Agree t) (c : Color) (now : Time) :
    (s.showColor c now).Agree (t.showColor c now) :=
  { h with
    active := rfl, color := rfl, deadline := fun _ => rfl
    dwr := congrArg (· ++ [c]) h.dwr }

theorem State.Agree.raiseFailure (h : s.Agree t) (f : Failure) (now : Time) :
    (s.raiseFailure f now).Agree (t.raiseFailure f now) :=
  { h.setReader_scan.showColor .error now with evt := rfl }

theorem State.Agree.acceptFrame (h : s.Agree t) (p : Payload) (now : Time) :
    (s.acceptFrame p now).Agree (t.acceptFrame p now) :=
  { h.showColor .good now with cmd := rfl, fwd := rfl, rev := rfl, evt := rfl }

theorem State.Agree.judge (h : s.Agree t) (v : Verdict) (now : Time) :
    (s.judge v now).Agree (t.judge v now) := by
  cases v with
  | ok p => exact h.acceptFrame p now
  | checksumMismatch => exact h.raiseFailure .checksumMismatch now

theorem State.Agree.polled (h : s.Agree t) (now : Time) :
    (s.beginStep.pollAt now).Agree (t.beginStep.pollAt now) := by
  rcases s.polled_cases now with ⟨hs, es⟩ | ⟨hs, es⟩ <;>
    rcases t.polled_cases now with ⟨ht, et⟩ | ⟨ht, et⟩ <;> rw [es, et]
  · exact { h with active := rfl, color := rfl, deadline := nofun, evt := rfl, cmd := rfl, dwr := rfl }
  · exact absurd (h.expires hs) ht
  · exact absurd (h.symm.expires ht) hs
  · exact { h with evt := rfl, cmd := rfl, dwr := rfl }

theorem State.Agree.housekeep (h : s.Agree t) (now : Time) :
    (s.housekeep now).Agree (t.housekeep now) := by
  rcases s.housekeep_cases now with ⟨hs, es⟩ | ⟨hs, es⟩ <;>
    rcases t.housekeep_cases now with ⟨ht, et⟩ | ⟨ht, et⟩ <;> rw [es, et]
  · exact (h.polled now).raiseFailure _ now
  · exact absurd (h.timedOut hs) ht
  · exact absurd (h.symm.timedOut ht) hs
  · exact h.polled now

/-- A stored byte joins the bytes of the assembly that agree. -/
theorem State.Agree.storeByte_buf (h : s.Agree t) (hr : s.rstate = .assemble) (b : Byte) (i : Fin 10)
    (h1 : 1 ≤ i.val) (hi : i.val ≤ s.cnt.val + 1) : (s.storeByte b).buf[i] = (t.storeByte b).buf[i] := by
  have hcnt : s.cnt.val = t.cnt.val := congrArg _ h.cnt
  simp only [State.storeByte_buf, Fin.getElem_fin, Vector.getElem_set, ← hcnt]
  split
  · rfl
  · exact h.buf hr i h1 (by omega)

theorem State.Agree.storeByte (h : s.Agree t) (b : Byte) : (s.storeByte b).Agree (t.storeByte b) :=
  { h with buf := fun hr i h1 hi => h.storeByte_buf hr b i h1 (Nat.le_succ_of_le hi) }

theorem State.Agree.acceptSync (h : s.Agree t) : s.acceptSync.Agree t.acceptSync :=
  { h with
    rstate := rfl, cnt := rfl
    base := fun _ hc => by simp at hc
    buf := fun _ i h1 hi => by simp at hi; omega }

theorem State.Agree.takeFirst (h : s.Agree t) (b : Byte) (now : Time) :
    (s.takeFirst b now).Agree (t.takeFirst b now) :=
  { h with
    cnt := congrArg nextCnt h.cnt
    base := fun _ _ => rfl
    buf := fun hr i h1 hi => h.storeByte_buf hr b i h1 (hi.trans (nextCnt_le _)) }

theorem State.Agree.takeMid (h : s.Agree t) (hc : 1 ≤ s.cnt.val) (b : Byte) :
    (s.takeMid b).Agree (t.takeMid b) :=
  { h with
    cnt := congrArg nextCnt h.cnt
    base := fun hr _ => h.base hr hc
    buf := fun hr i h1 hi => h.storeByte_buf hr b i h1 (hi.trans (nextCnt_le _)) }

/-- With the ninth byte every byte VALIDATE reads belongs to the assembly. -/
theorem State.Agree.takeLast (h : s.Agree t) (hr : s.rstate = .assemble) (hc : s.cnt.val = 8)
    (b : Byte) (now : Time) : (s.takeLast b now).Agree (t.takeLast b now) := by
  have hv : validateFrame (s.storeByte b).buf = validateFrame (t.storeByte b).buf :=
    validateFrame_congr fun i h1 => h.storeByte_buf hr b i h1 (by omega)
  unfold State.takeLast
  rw [hv]
  exact ((h.storeByte b).judge _ now).setReader_scan

theorem State.Agree.receive (h : s.Agree t) (b : Byte) (now : Time) :
    (s.receive b now).Agree (t.receive b now) := by
  unfold State.receive
  rw [← h.rstate, ← h.cnt]
  rcases selectRx_cases s.rstate s.cnt b with
    ⟨_, _, e⟩ | ⟨_, _, e⟩ | ⟨_, _, e⟩ | ⟨_, hc, _, e⟩ | ⟨hr, hc, e⟩ <;> rw [e]
  · exact h.acceptSync
  · exact h
  · exact h.takeFirst b now
  · exact h.takeMid hc b
  · exact h.takeLast hr hc b now

theorem State.Agree.resetRegisters (h : s.Agree t) : s.resetRegisters.Agree t.resetRegisters where
  rstate := rfl
  cnt := rfl
  active := rfl
  color := rfl
  fwd := rfl
  rev := rfl
  evt := rfl
  cmd := rfl
  dwr := rfl
  fnResult := h.fnResult
  lastNow := rfl
  script := h.script
  base := nofun
  deadline := nofun
  buf := nofun

theorem State.Agree.setResult (h : s.Agree t) (r : FnResult) : (s.setResult r).Agree (t.setResult r) :=
  { h with fnResult := rfl }

/-! Operations answer alike in both states. -/

theorem State.Agree.outcomes_atTime (h : s.Agree t) {now : Time}
    {k : State → Host.Outcome State Fault Refusal}
    (hk : OutcomesAgree (k { s with lastNow := some now }) (k { t with lastNow := some now })) :
    OutcomesAgree (atTime now s k) (atTime now t k) := by
  rcases atTime_cases now s k with ⟨ho, e⟩ | ⟨hf, e⟩ | ⟨hf, ho, e⟩ <;> rw [e]
  · rw [atTime_of_ok (h.timeOk ho)]
    exact hk
  · rcases atTime_cases now t k with ⟨ho', _⟩ | ⟨_, e'⟩ | ⟨hf', _, _⟩
    · exact absurd ho'.fits hf
    · rw [e']
      exact .refused _
    · exact absurd hf' hf
  · rcases atTime_cases now t k with ⟨ho', _⟩ | ⟨hf', _⟩ | ⟨_, _, e'⟩
    · exact absurd (h.symm.timeOk ho') ho
    · exact absurd hf hf'
    · rw [e']
      exact .refused _

theorem State.Agree.outcomes_exec (h : s.Agree t) {inp : Input} {i : Instr}
    (hd : decodeInput inp = .ok i) : OutcomesAgree (exec i s) (exec i t) := by
  cases inp with
  | malformed n w => cases hd
  | call fn w =>
    rcases decodeInput_call hd with ⟨p, rfl⟩ | ⟨f, rfl⟩ | ⟨v, rfl⟩ | ⟨v, rfl⟩
    · exact .next (h.setResult _)
    · exact .next (h.setResult _)
    · exact .ite (.next (h.setResult _)) _
    · exact .ite (.next (h.setResult _)) _
  | stim word now =>
    rcases decodeInput_port word now with e | e | e <;> obtain rfl := Except.ok.inj (hd.symm.trans e)
    · exact .next h.resetRegisters
    · rw [exec_stepIdle, exec_stepIdle]
      exact h.outcomes_atTime (.next ((h.record now).housekeep now))
    · rw [exec_stepRx, exec_stepRx]
      exact h.outcomes_atTime (.next (((h.record now).housekeep now).receive _ now))

theorem State.Agree.outcomes_step (h : s.Agree t) : OutcomesAgree (step s) (step t) := by
  cases hs : s.script with
  | nil =>
    rw [step_nil hs, step_nil (h.script ▸ hs)]
    exact .refused _
  | cons inp rest =>
    have ht : t.script = inp :: rest := h.script ▸ hs
    have hrest : State.Agree { s with script := rest } { t with script := rest } := { h with script := rfl }
    cases hd : decodeInput inp with
    | ok i =>
      rw [step_cons hs hd, step_cons ht hd]
      exact hrest.outcomes_exec hd
    | error e =>
      rw [step_undecodable hs hd, step_undecodable ht hd]
      exact .refused _

end

/-- Settles O42: both halves are read off `State.Agree.outcomes_step`. -/
theorem meaninglessRegistersHaveNoEffect : Obligations.MeaninglessRegistersHaveNoEffect := by
  unfold Obligations.MeaninglessRegistersHaveNoEffect
  intro s t h
  have hstep := h.outcomes_step
  exact ⟨fun s' e => (e ▸ hstep).exists_next, fun r e => (e ▸ hstep).eq_refused⟩

/-! ### Which steps write the duty registers and `BASE` -/

/-- Everything the RX operation of a step can do to the duty registers: nothing, or MAP of an accepted frame (R191). -/
theorem State.receive_duties (s : State) (b : Byte) (now : Time) :
    s.SameDuties (s.receive b now) ∨
    ((s.receive b now).evt = .frameOk ∧ ∃ cmd, (s.receive b now).cmd = some cmd ∧
      (s.receive b now).fwd = forwardDuties cmd ∧ (s.receive b now).rev = reverseDuties cmd) := by
  rcases s.receive_cases b now with ⟨_, _, e⟩ | ⟨_, _, e⟩ | ⟨_, _, e⟩ | ⟨_, _, _, e⟩ | ⟨_, _, e⟩ <;> rw [e]
  any_goals exact .inl ⟨rfl, rfl⟩
  rcases s.takeLast_cases b now with ⟨p, _, e⟩ | ⟨_, e⟩ <;> rw [e]
  · exact .inr ⟨rfl, commandsOf p, rfl, rfl, rfl⟩
  · exact .inl ⟨rfl, rfl⟩

/-- Settles O18: `State.housekeep_frame` and `State.receive_duties`, along the four kinds of step. -/
theorem dutiesMoveOnlyOnAcceptedFrame : Obligations.DutiesMoveOnlyOnAcceptedFrame := by
  unfold Obligations.DutiesMoveOnlyOnAcceptedFrame
  intro s t h hmoved
  have hnot : ¬ s.SameDuties t := fun ⟨hf, hr⟩ => hmoved.elim (· hf) (· hr)
  obtain ⟨r, rest, rfl⟩ | ⟨word, now, rest, hs, ⟨h9, rfl⟩ | ⟨_, _, _, rfl⟩ | ⟨_, _, _, rfl⟩⟩ := step_cases h
  · exact absurd ⟨rfl, rfl⟩ hnot
  · exact .inl ⟨word, now, rest, hs, h9⟩
  · exact absurd (State.housekeep_frame _ now).1 hnot
  · obtain ⟨⟨hf, hr⟩, _⟩ := State.housekeep_frame { s with script := rest, lastNow := some now } now
    rcases State.receive_duties (State.housekeep { s with script := rest, lastNow := some now } now)
      (word.extractLsb' 0 8) now with ⟨hf', hr'⟩ | ⟨hevt, cmd, hcmd, hf', hr'⟩
    · exact absurd ⟨hf'.trans hf, hr'.trans hr⟩ hnot
    · exact .inr ⟨hevt, cmd, hcmd, fun k => by simp [hf', hr']⟩

/-- Everything the RX operation of a step can do to `BASE`: only RX.ASM.FIRST writes it (R28, R104). -/
theorem State.receive_base (s : State) (b : Byte) (now : Time) :
    (s.receive b now).base = s.base ∨
    (s.rstate = .assemble ∧ s.cnt = 0 ∧ s.receive b now = s.takeFirst b now) := by
  rcases s.receive_cases b now with ⟨_, _, e⟩ | ⟨_, _, e⟩ | ⟨hr, hc, e⟩ | ⟨_, _, _, e⟩ | ⟨_, _, e⟩ <;> rw [e]
  any_goals exact .inl rfl
  · exact .inr ⟨hr, Fin.ext hc, rfl⟩
  · rcases s.takeLast_cases b now with ⟨p, _, e⟩ | ⟨_, e⟩ <;> rw [e] <;> exact .inl rfl

/-- An assembly still open after POLL and TCHK was open before: TCHK only closes one (R108). -/
theorem State.housekeep_assemble {s : State} {now : Time} (h : (s.housekeep now).rstate = .assemble) :
    s.SameReader (s.housekeep now) := by
  rcases s.housekeep_cases now with ⟨_, e⟩ | ⟨_, e⟩ <;> rw [e] at h ⊢
  · cases h
  · exact (s.polled_fields now).1

/-- RX.ASM.FIRST in its own state (R104). -/
theorem State.takeFirst_fields {s : State} (hc : s.cnt = 0) (b : Byte) (now : Time) :
    (s.takeFirst b now).base = now ∧ (s.takeFirst b now).cnt = 1 ∧ (s.takeFirst b now).buf[1] = b := by
  refine ⟨rfl, ?_, ?_⟩ <;> simp [hc, nextCnt]

/-- Settles O39: `State.receive_base` on the state POLL and TCHK leave, along the four kinds of step. -/
theorem baseMovesOnlyOnFirstByte : Obligations.BaseMovesOnlyOnFirstByte := by
  unfold Obligations.BaseMovesOnlyOnFirstByte
  intro s t h hmoved
  obtain ⟨r, rest, rfl⟩ | ⟨word, now, rest, hs, ⟨h9, rfl⟩ | ⟨_, _, _, rfl⟩ | ⟨_, h8, _, rfl⟩⟩ := step_cases h
  · exact absurd rfl hmoved
  · exact ⟨word, now, rest, hs, .inl h9⟩
  · obtain ⟨_, _, hbase, _⟩ := State.housekeep_frame { s with script := rest, lastNow := some now } now
    exact absurd hbase hmoved
  · obtain ⟨_, _, hbase, _⟩ := State.housekeep_frame { s with script := rest, lastNow := some now } now
    rcases State.receive_base (State.housekeep { s with script := rest, lastNow := some now } now)
      (word.extractLsb' 0 8) now with e | ⟨hr, hc, e⟩
    · exact absurd (e.trans hbase) hmoved
    · obtain ⟨hr', hc', _, _⟩ := State.housekeep_assemble hr
      rw [e]
      exact ⟨word, now, rest, hs, .inr ⟨h8, hr'.symm.trans hr, hc'.symm.trans hc,
        State.takeFirst_fields hc _ now⟩⟩

end Sys2Proof.Machine
end

section
/-! SUPPORT. The obligation about repeated POLLs (R59 d, R151): an expired indicator is inactive, so nothing expires again. -/

namespace Sys2Proof.Machine

section
variable {s : State} {now now' : Time}

/-- POLL switches an expiring indicator off (R151). -/
theorem State.Expires.pollAt_active (h : s.Expires now) : (s.pollAt now).active = false := by
  rcases s.pollAt_cases now with ⟨_, e⟩ | ⟨h', _⟩
  · rw [e, State.emit_active]
  · exact absurd h h'

theorem State.pollAt_of_inactive (h : s.active = false) : s.pollAt now = s := by
  rcases s.pollAt_cases now with ⟨⟨ha, _⟩, _⟩ | ⟨_, e⟩
  · simp [h] at ha
  · exact e

/-- POLL of an inactive indicator only records its time. -/
theorem exec_poll_of_inactive (ht : s.TimeOk now) (h : s.active = false) :
    exec (.poll now) s = .next { s with lastNow := some now } :=
  (exec_poll_ok ht).trans (congrArg _ (State.pollAt_of_inactive h))

/-- The premises on the clock hold again at a later `now'`, with the reading `now` recorded (R216). -/
theorem State.TimeOk.record_of_le (ht : s.TimeOk now) (hle : now.toNat ≤ now'.toNat)
    (hfits : now'.toNat + 500000 < 2 ^ 64) : State.TimeOk { s with lastNow := some now } now' where
  monotonic := fun t hlast => by
    obtain rfl := Option.some.inj hlast
    exact hle
  fits := hfits
  window := fun hr hc => (ht.window hr hc).trans hle

/-- POLL touches nothing that the premises on the clock speak of. -/
theorem State.TimeOk.pollAt (ht : s.TimeOk now') (now : Time) : (s.pollAt now).TimeOk now' := by
  rcases s.pollAt_cases now with ⟨_, e⟩ | ⟨_, e⟩ <;> rw [e]
  · exact ⟨⟨ht.monotonic, ht.fits⟩, ht.window⟩
  · exact ht

end

/-- Settles O13: the first POLL leaves the indicator inactive (`State.Expires.pollAt_active`) and the clock premises in
force (`State.TimeOk.pollAt`), so the second one only records its time (`exec_poll_of_inactive`). -/
theorem pollAfterExpiryDoesNothing : Obligations.PollAfterExpiryDoesNothing := by
  unfold Obligations.PollAfterExpiryDoesNothing
  intro now now' s ht hle hfits hactive hdeadline
  have hexp : State.Expires { s with lastNow := some now } now := ⟨hactive, hdeadline⟩
  exact ⟨_, exec_poll_ok ht, exec_poll_of_inactive ((ht.record_of_le hle hfits).pollAt now) hexp.pollAt_active⟩

end Sys2Proof.Machine
end

section
/-! SUPPORT. The obligations about encodings: the rows' words and the port's words (R70 to R72, R79), the bus of the commands
(R76), the sender's line (R78, R85, R86), and the RX operations where R72 does not select them (R101). -/

namespace Sys2Proof.Machine

/-! ### Decoding reads encoding back (R70, R71, R75, R79) -/

/-- Every operation's word is of its own row and meets the row's width and fixed bits. -/
theorem encode_fits (i : Instr) : Laws.EncodeFits.Statement i := by
  cases i with
  | reset => exact Laws.EncodeFits.reset
  | stepIdle now => exact Laws.EncodeFits.stepIdle now
  | stepRx b now => exact Laws.EncodeFits.stepRx b now
  | poll now => exact Laws.EncodeFits.poll now
  | tchk now => exact Laws.EncodeFits.tchk now
  | rxScanDrop b => exact Laws.EncodeFits.rxScanDrop b
  | rxScanSync => exact Laws.EncodeFits.rxScanSync
  | rxAsmFirst b now => exact Laws.EncodeFits.rxAsmFirst b now
  | rxAsmMid b => exact Laws.EncodeFits.rxAsmMid b
  | rxAsmLast b now => exact Laws.EncodeFits.rxAsmLast b now
  | csum p => exact Laws.EncodeFits.csum p
  | validate f => exact Laws.EncodeFits.validate f
  | split v => exact Laws.EncodeFits.split v
  | map cmd => exact Laws.EncodeFits.map cmd
  | trigger c now => exact Laws.EncodeFits.trigger c now
  | encode v => exact Laws.EncodeFits.encode v

/-- The checks of the decoder pass every encoded operation, and its operands are read. -/
theorem decode_encode_eq_operands (i : Instr) :
    decode (encode i) = decodeOperands i.row (encode i).bits (encode i).now := by
  obtain ⟨hrow, hwidth, hfixed⟩ := encode_fits i
  rw [← hrow] at hwidth hfixed ⊢
  exact decode_of_fits hwidth hfixed

@[simp] theorem byteAt_toNat_zero (b : Byte) : byteAt b.toNat 0 = b := by
  simpa using byteAt_push_zero 0 b

@[simp] theorem ofCode_code (c : Color) : Color.ofCode (BitVec.ofNat 2 c.code.toNat) = some c := by
  cases c <;> rfl

/-- The operands of a well-formed operation are read back from its bits; the conditions of `WellFormed` are the ones on
which `decodeOperands` rejects or `s8` would lose a value. -/
theorem decodeOperands_encode {i : Instr} (h : WellFormed i) :
    decodeOperands i.row (encode i).bits (encode i).now = .ok i := by
  cases i with
  | reset | stepIdle | poll | tchk | rxScanSync => rfl
  | stepRx | rxAsmFirst | rxAsmMid | rxAsmLast => simp [Instr.row, encode, decodeOperands]
  | csum | validate => simp [Instr.row, encode, decodeOperands]
  | rxScanDrop b =>
    have hb : b ≠ Config.sync := h
    simp [Instr.row, encode, decodeOperands, hb]
  | split v => simp [Instr.row, encode, decodeOperands, s8_u8 h]
  | map cmd => simp [Instr.row, encode, decodeOperands, commandsOf_payloadOfCommands h]
  | trigger c now =>
    cases c with
    | idle => exact absurd rfl h
    | good | error => rfl
  | encode v => simp [Instr.row, encode, decodeOperands, commandsOf_payloadOfCommands h]

theorem decode_encode {i : Instr} (h : WellFormed i) : decode (encode i) = .ok i :=
  (decode_encode_eq_operands i).trans (decodeOperands_encode h)

/-- An operation that the port can carry decodes from its stimulus input (R71). -/
theorem decodeInput_stimOf {i : Instr} {inp : Input} (h : stimOf i = some inp) : decodeInput inp = .ok i := by
  cases i with
  | reset => obtain rfl := Option.some.inj h; rfl
  | stepIdle now => obtain rfl := Option.some.inj h; exact decodeInput_idleInput now
  | stepRx b now => obtain rfl := Option.some.inj h; exact decodeInput_byteInput b now
  | _ => cases h

/-- Settles O43: `decode_encode` for the rows' words, `decodeInput_stimOf` for the port's. -/
theorem decodeReadsEncodeBack : Obligations.DecodeReadsEncodeBack := by
  unfold Obligations.DecodeReadsEncodeBack
  exact ⟨fun _ => decode_encode, fun _ _ => decodeInput_stimOf⟩

/-! ### The sender's clamp and line (R78, R85, R86) -/

theorem clampCommand_of_lt {x : Int} (h : x < -128) : clampCommand x = -128 := if_pos h

theorem clampCommand_of_gt {x : Int} (h : x > 127) : clampCommand x = 127 := by
  have hmin : ¬ x < Config.cmdMin := by simp only [Config.cmdMin]; omega
  exact (if_neg hmin).trans (if_pos h)

theorem clampCommand_of_inRange {x : Int} (h : CmdInRange x) : clampCommand x = x :=
  (if_neg (not_lt.mpr h.1)).trans (if_neg (not_lt.mpr h.2))

/-- A line of a length that R85 does not name is no line. -/
theorem assembleLine_eq_parseError {l : List Int} (h4 : l.length ≠ 4) (h8 : l.length ≠ 8) (h12 : l.length ≠ 12) :
    assembleLine l = .inputParseError := by
  unfold assembleLine
  split
  · exact absurd rfl h4
  · exact absurd rfl h8
  · exact absurd rfl h12
  · rfl

/-- Settles O26: the three ranges of the clamp; the frame of eight tokens by the definition of the line. -/
theorem lineOfEightTokensIsClampedAndEncoded : Obligations.LineOfEightTokensIsClampedAndEncoded := by
  unfold Obligations.LineOfEightTokensIsClampedAndEncoded
  refine ⟨fun x => ⟨clampCommand_of_lt, clampCommand_of_gt, ?_⟩, ?_, ?_⟩
  · exact fun hmin hmax => clampCommand_of_inRange ⟨hmin, hmax⟩
  · intro a b c d e f g h
    rfl
  · exact fun l => assembleLine_eq_parseError

/-! ### The bus of the commands (R76) -/

/-- The last byte joined into a word is its byte 0, the one before it byte 1, and so on. -/
theorem byteAt_bitsOfBytes_reverse (l : List Byte) (k : Nat) (hk : k < l.length) :
    byteAt (bitsOfBytes l.reverse) k = l[k] := by
  induction l generalizing k with
  | nil => cases hk
  | cons b l ih =>
    have hpush : bitsOfBytes (b :: l).reverse = bitsOfBytes l.reverse * 256 + b.toNat := by
      simp [bitsOfBytes]
    rw [hpush]
    cases k with
    | zero => exact byteAt_push_zero _ b
    | succ k => rw [byteAt_push_succ, ih k (Nat.lt_of_succ_lt_succ hk), List.getElem_cons_succ]

/-- Bits 8k+7 : 8k of a 64-bit word are byte `k` of its number. -/
theorem extractLsb'_ofNat_eq_byteAt (n : Nat) {k : Nat} (hk : k < 8) :
    (BitVec.ofNat 64 n).extractLsb' (8 * k) 8 = byteAt n k := by
  ext i hi
  have h64 : 8 * k + i < 64 := by omega
  simp [byteAt, ← BitVec.getLsbD_eq_getElem, BitVec.getLsbD_ofNat, h64, hi]

/-- Settles O27: a lane of the bus is a byte of the joined, reversed payload. -/
theorem commandBusLanes : Obligations.CommandBusLanes := by
  unfold Obligations.CommandBusLanes
  intro cmd k
  have hk : k.val < (payloadOfCommands cmd).toList.length := by simp
  calc (cmdBus cmd).extractLsb' (8 * k.val) 8
      = byteAt (bitsOfBytes (payloadOfCommands cmd).toList.reverse) k := extractLsb'_ofNat_eq_byteAt _ k.isLt
    _ = (payloadOfCommands cmd).toList[k.val] := byteAt_bitsOfBytes_reverse _ _ hk
    _ = u8 cmd[k] := by
      rw [Vector.getElem_toList, payloadOfCommands_getElem]
      rfl

/-! ### The stimulus word (R71) -/

section
variable {word : BitVec 10} {now : Time}

theorem decodeStim_of_rst (h9 : word.getLsbD 9 = true) : decodeStim word now = .reset := if_pos h9

theorem decodeStim_of_rst_clear (h9 : word.getLsbD 9 = false) :
    decodeStim word now = if word.getLsbD 8 then .stepRx (word.extractLsb' 0 8) now else .stepIdle now :=
  if_neg (ne_true_of_eq_false h9)

end

/-- Settles O30: bit 9 decides first, then bit 8. -/
theorem stimulusWordFields : Obligations.StimulusWordFields := by
  unfold Obligations.StimulusWordFields
  intro word now
  simp only [decodeInput, Except.ok.injEq]
  refine ⟨decodeStim_of_rst, ?_, ?_⟩
  · intro h9 h8
    rw [decodeStim_of_rst_clear h9, if_neg (ne_true_of_eq_false h8)]
  · intro h9 h8
    rw [decodeStim_of_rst_clear h9, if_pos h8]

/-! ### Words written out (R71, R79) -/

/-- Settles O44: a two-byte word is a stimulus word (`decodeTableWord_eq_some`, log 10); then the decoder is evaluated. -/
theorem writtenOutWordsDecode : Obligations.WrittenOutWordsDecode := by
  unfold Obligations.WrittenOutWordsDecode
  simp only [decodeTableWord_eq_some]
  and_intros <;> decide

/-! ### RX operations where R72 does not select them (R101, log 8) -/

/-- The state, and for a dropped byte the operand, for which R72 (rows 3 to 7) selects an RX operation. RX.SCAN.SYNC has
no operand: its byte is the sync byte. -/
def RxSelectable (op : RxOp) (r : RState) (c : Fin 9) (b : Byte) : Prop :=
  match op with
  | .drop => r = .scan ∧ b ≠ Config.sync
  | .sync => r = .scan
  | .first => r = .assemble ∧ c.val = 0
  | .mid => r = .assemble ∧ 1 ≤ c.val ∧ c.val ≤ 7
  | .last => r = .assemble ∧ c.val = 8

theorem rxSelectable_selectRx (r : RState) (c : Fin 9) (b : Byte) :
    RxSelectable (selectRx r c b) r c b := by
  rcases selectRx_cases r c b with
    ⟨hr, _, e⟩ | ⟨hr, hb, e⟩ | ⟨hr, hc, e⟩ | ⟨hr, hlo, hhi, e⟩ | ⟨hr, hc, e⟩ <;> rw [e]
  · exact hr
  · exact ⟨hr, hb⟩
  · exact ⟨hr, hc⟩
  · exact ⟨hr, hlo, hhi⟩
  · exact ⟨hr, hc⟩

theorem selectRx_ne_of_not_rxSelectable {op : RxOp} {r : RState} {c : Fin 9} {b : Byte}
    (h : ¬ RxSelectable op r c b) : selectRx r c b ≠ op :=
  fun e => h (e ▸ rxSelectable_selectRx r c b)

/-- An RX operation applied by itself where it is not selectable is refused under its own row. -/
theorem exec_rx_of_not_rxSelectable {op : RxOp} {b : Byte} {s : State} (now : Time)
    (h : ¬ RxSelectable op s.rstate s.cnt b) :
    exec (op.instr b now) s = .refused (.notSelected (op.instr b now).row) := by
  cases op with
  | sync => exact if_neg (selectRx_ne_of_not_rxSelectable (b := Config.sync) h)
  | drop | first | mid | last => exact if_neg (selectRx_ne_of_not_rxSelectable h)

/-- Settles O46: each condition contradicts `RxSelectable` of its operation. -/
theorem unselectedRxOperationIsRefused : Obligations.UnselectedRxOperationIsRefused := by
  unfold Obligations.UnselectedRxOperationIsRefused
  intro b now s
  refine ⟨fun h => exec_rx_of_not_rxSelectable (op := .drop) now ?_,
    fun h => exec_rx_of_not_rxSelectable (op := .sync) (b := b) now ?_,
    fun h => exec_rx_of_not_rxSelectable (op := .first) now ?_,
    fun h => exec_rx_of_not_rxSelectable (op := .mid) now ?_,
    fun h => exec_rx_of_not_rxSelectable (op := .last) now ?_⟩
  · rintro ⟨hr, hb⟩
    rcases h with ha | hsync
    · simp [hr] at ha
    · exact hb hsync
  · intro hr
    exact absurd (hr.symm.trans h) (by decide)
  · rintro ⟨hr, hc⟩
    rcases h with hs | h1
    · simp [hr] at hs
    · omega
  · rintro ⟨hr, hlo, hhi⟩
    rcases h with hs | h0 | h8
    · simp [hr] at hs
    · simp [h0] at hlo
    · simp [h8] at hhi
  · rintro ⟨hr, hc⟩
    rcases h with hs | h7
    · simp [hr] at hs
    · omega

end Sys2Proof.Machine
end

section
/-! SUPPORT. The obligations about the Frame Reader (R100 to R115): its operations one by one, its transition table, the lone
sync byte, the accounting of outcomes, and that no step stops. -/

namespace Sys2Proof.Machine

/-! ### The RX operations where R72 selects them -/

section
variable {r : RState} {c : Fin 9} {b : Byte}

theorem selectRx_eq_drop (hr : r = .scan) (hb : b ≠ Config.sync) : selectRx r c b = .drop := by
  rw [hr]
  exact if_neg hb

theorem selectRx_eq_sync (hr : r = .scan) (hb : b = Config.sync) : selectRx r c b = .sync := by
  rw [hr]
  exact if_pos hb

theorem selectRx_eq_first (hr : r = .assemble) (hc : c = 0) : selectRx r c b = .first := by
  simp [selectRx, hr, hc]

theorem selectRx_eq_mid (hr : r = .assemble) (h1 : 1 ≤ c.val) (h7 : c.val ≤ 7) : selectRx r c b = .mid := by
  have h0 : c.val ≠ 0 := by omega
  have h8 : c.val ≠ 8 := by omega
  simp [selectRx, hr, h0, h8]

theorem selectRx_eq_last (hr : r = .assemble) (hc : c = 8) : selectRx r c b = .last := by
  simp [selectRx, hr, hc]

end

section
variable {s : State} {b : Byte} {now : Time}

theorem exec_rxScanDrop_ok (hr : s.rstate = .scan) (hb : b ≠ Config.sync) : exec (.rxScanDrop b) s = .next s :=
  if_pos (selectRx_eq_drop hr hb)

theorem exec_rxScanSync_ok (hr : s.rstate = .scan) : exec .rxScanSync s = .next s.acceptSync :=
  if_pos (selectRx_eq_sync hr rfl)

theorem exec_rxAsmFirst_ok (hr : s.rstate = .assemble) (hc : s.cnt = 0) (ht : s.TimeOk now) :
    exec (.rxAsmFirst b now) s = .next (State.takeFirst { s with lastNow := some now } b now) :=
  (if_pos (selectRx_eq_first hr hc)).trans (atTime_of_ok ht fun s => .next (s.takeFirst b now))

theorem exec_rxAsmMid_ok (hr : s.rstate = .assemble) (h1 : 1 ≤ s.cnt.val) (h7 : s.cnt.val ≤ 7) :
    exec (.rxAsmMid b) s = .next (s.takeMid b) :=
  if_pos (selectRx_eq_mid hr h1 h7)

theorem exec_rxAsmLast_ok (hr : s.rstate = .assemble) (hc : s.cnt = 8) (ht : s.TimeOk now) :
    exec (.rxAsmLast b now) s = .next (State.takeLast { s with lastNow := some now } b now) :=
  (if_pos (selectRx_eq_last hr hc)).trans (atTime_of_ok ht fun s => .next (s.takeLast b now))

theorem State.receive_drop (hr : s.rstate = .scan) (hb : b ≠ Config.sync) : s.receive b now = s := by
  rw [State.receive, selectRx_eq_drop hr hb]

theorem State.receive_sync (hr : s.rstate = .scan) (hb : b = Config.sync) : s.receive b now = s.acceptSync := by
  rw [State.receive, selectRx_eq_sync hr hb]

theorem State.receive_first (hr : s.rstate = .assemble) (hc : s.cnt = 0) :
    s.receive b now = s.takeFirst b now := by
  rw [State.receive, selectRx_eq_first hr hc]

theorem State.receive_mid (hr : s.rstate = .assemble) (h1 : 1 ≤ s.cnt.val) (h7 : s.cnt.val ≤ 7) :
    s.receive b now = s.takeMid b := by
  rw [State.receive, selectRx_eq_mid hr h1 h7]

theorem State.receive_last (hr : s.rstate = .assemble) (hc : s.cnt = 8) :
    s.receive b now = s.takeLast b now := by
  rw [State.receive, selectRx_eq_last hr hc]

/-! ### What the RX operations leave in `BUF`, and the verdict of RX.ASM.LAST -/

theorem State.storeByte_getElem_of_eq {i : Fin 10} (hi : i.val = s.cnt.val + 1) : (s.storeByte b).buf[i] = b := by
  simp [hi]

theorem State.storeByte_getElem_of_ne {i : Fin 10} (hi : i.val ≠ s.cnt.val + 1) :
    (s.storeByte b).buf[i] = s.buf[i] := by
  simp [Ne.symm hi]

/-- The ninth byte is no payload byte. -/
theorem State.storeByte_payload (hc : s.cnt = 8) : payloadOf (s.storeByte b).buf = payloadOf s.buf := by
  simp [payloadOf, hc]

/-- RX.ASM.LAST on a matching checksum byte (R106). -/
theorem State.takeLast_of_match (hc : s.cnt = 8) (h : csumOf (payloadOf s.buf) = b) :
    s.takeLast b now = ((s.storeByte b).acceptFrame (payloadOf s.buf) now).setReader .scan 0 := by
  have hv : validateFrame (s.storeByte b).buf = .ok (payloadOf s.buf) := by
    rw [validateFrame_eq_ok, State.storeByte_payload hc, State.storeByte_last hc]
    exact ⟨h, rfl⟩
  rw [State.takeLast, hv]
  rfl

/-- RX.ASM.LAST on any other byte (R106). -/
theorem State.takeLast_of_mismatch (hc : s.cnt = 8) (h : csumOf (payloadOf s.buf) ≠ b) :
    s.takeLast b now = ((s.storeByte b).raiseFailure .checksumMismatch now).setReader .scan 0 := by
  have hv : validateFrame (s.storeByte b).buf = .checksumMismatch := by
    rw [validateFrame_eq_mismatch, State.storeByte_payload hc, State.storeByte_last hc]
    exact h
  rw [State.takeLast, hv]
  rfl

/-- What RX.ASM.LAST does whatever the verdict (R106). -/
theorem State.takeLast_common (s : State) (b : Byte) (now : Time) :
    (s.takeLast b now).rstate = .scan ∧ (s.takeLast b now).cnt = 0 ∧ (s.takeLast b now).base = s.base ∧
    (s.takeLast b now).buf = (s.storeByte b).buf ∧ (s.takeLast b now).active = true ∧
    (s.takeLast b now).deadline = holdUntil now ∧ s.SameOwn (s.takeLast b now) ∧
    (s.takeLast b now).lastNow = s.lastNow := by
  rcases s.takeLast_cases b now with ⟨p, _, e⟩ | ⟨_, e⟩ <;> rw [e] <;>
    exact ⟨rfl, rfl, rfl, rfl, rfl, rfl, ⟨rfl, rfl, rfl⟩, rfl⟩

end

/-- Settles O3: R72 selects RX.SCAN.DROP, whose state is the one it got. -/
theorem scanDropChangesNothing : Obligations.ScanDropChangesNothing := by
  unfold Obligations.ScanDropChangesNothing
  exact fun b s hr hb => exec_rxScanDrop_ok hr hb

/-- Settles O4: the fields of `State.acceptSync`, which stores at index 0 only. -/
theorem scanSyncOpensAssembly : Obligations.ScanSyncOpensAssembly := by
  unfold Obligations.ScanSyncOpensAssembly
  intro s hr
  have hsync : s.acceptSync.buf[0] = 0xAA#8 := by simp [Config.sync]
  have hkept : ∀ i : Fin 10, i ≠ 0 → s.acceptSync.buf[i] = s.buf[i] := fun i hi => by
    have hi' : 0 ≠ i.val := fun h => hi (Fin.ext h.symm)
    simp [hi']
  exact ⟨_, exec_rxScanSync_ok hr, hsync, rfl, rfl, hkept, rfl, ⟨rfl, rfl, rfl⟩, ⟨rfl, rfl⟩, ⟨rfl, rfl, rfl⟩,
    ⟨rfl, rfl, rfl⟩, rfl⟩

/-- Settles O5: `State.takeFirst_fields`, and `State.storeByte` writes index 1 only. -/
theorem asmFirstRecordsBase : Obligations.AsmFirstRecordsBase := by
  unfold Obligations.AsmFirstRecordsBase
  intro b now s hr hc ht
  obtain ⟨hbase, hcnt, hbuf⟩ := State.takeFirst_fields (s := { s with lastNow := some now }) hc b now
  have hkept : ∀ i : Fin 10, i ≠ 1 → (s.storeByte b).buf[i] = s.buf[i] := fun i hi =>
    State.storeByte_getElem_of_ne fun h => hi (Fin.ext (by simpa [hc] using h))
  exact ⟨_, exec_rxAsmFirst_ok hr hc ht, hbuf, hbase, hcnt, hr, hkept, ⟨rfl, rfl, rfl⟩, ⟨rfl, rfl⟩,
    ⟨rfl, rfl, rfl⟩, ⟨rfl, rfl, rfl⟩, rfl⟩

/-- Settles O6: `State.storeByte` writes index `CNT + 1` only, and `CNT` is below 8. -/
theorem asmMidStoresByte : Obligations.AsmMidStoresByte := by
  unfold Obligations.AsmMidStoresByte
  intro b s hr h1 h7
  exact ⟨_, exec_rxAsmMid_ok hr h1 h7, fun i hi => State.storeByte_getElem_of_eq hi,
    fun i hi => State.storeByte_getElem_of_ne hi, nextCnt_of_lt (by omega), hr, rfl, ⟨rfl, rfl, rfl⟩, ⟨rfl, rfl⟩,
    ⟨rfl, rfl, rfl⟩, ⟨rfl, rfl, rfl⟩, rfl⟩

/-- Settles O7: `State.takeLast_common` for both verdicts, then one equation per verdict. -/
theorem asmLastValidatesAndActs : Obligations.AsmLastValidatesAndActs := by
  unfold Obligations.AsmLastValidatesAndActs
  intro b now s hr hc ht
  obtain ⟨hr', hc', hbase, hbuf, hact, hdl, hown, hlast⟩ :=
    State.takeLast_common { s with lastNow := some now } b now
  refine ⟨_, exec_rxAsmLast_ok hr hc ht, hr', hc', hbase, ?_, ?_, hact, ?_, hown, hlast, ?_, ?_⟩
  · exact (congrArg (·[9]) hbuf).trans (State.storeByte_last hc b)
  · intro i hi
    rw [hbuf]
    exact State.storeByte_getElem_of_ne fun h => hi (Fin.ext (by simpa [hc] using h))
  · rw [hdl, holdUntil_toNat ht.fits]
  · intro h
    rw [State.takeLast_of_match (s := { s with lastNow := some now }) hc h]
    exact ⟨rfl, rfl, rfl, commandsOf (payloadOf s.buf), rfl, fun k => by simp⟩
  · intro h
    rw [State.takeLast_of_mismatch (s := { s with lastNow := some now }) hc h]
    exact ⟨rfl, rfl, rfl, rfl, rfl, rfl⟩

/-! ### TCHK (R108) -/

section
variable {s : State} {now : Time}

theorem State.checkWindow_of_timedOut (h : s.TimedOut now) :
    s.checkWindow now = s.raiseFailure .frameTimeout now :=
  if_pos (s.windowExceeded_iff now |>.mpr h)

theorem State.checkWindow_of_not_timedOut (h : ¬ s.TimedOut now) : s.checkWindow now = s :=
  if_neg fun hw => h (s.windowExceeded_iff now |>.mp hw)

end

/-- Settles O8: the two sides of TCHK's condition. -/
theorem tchkRaisesTimeoutExactlyWhenExceeded : Obligations.TchkRaisesTimeoutExactlyWhenExceeded := by
  unfold Obligations.TchkRaisesTimeoutExactlyWhenExceeded
  intro now s ht
  refine ⟨_, exec_tchk_ok ht, fun h => ?_, fun h => State.checkWindow_of_not_timedOut h⟩
  rw [State.checkWindow_of_timedOut (s := { s with lastNow := some now }) h]
  exact ⟨rfl, rfl, rfl, rfl, holdUntil_toNat ht.fits, rfl, rfl, rfl, rfl, rfl, ⟨rfl, rfl⟩, ⟨rfl, rfl, rfl⟩, rfl⟩

/-! ### The rows of the transition table (R109), on the state a step starts from -/

section
variable {s : State} {b : Byte} {now : Time}

theorem State.not_timedOut_of_scan (hr : s.rstate = .scan) : ¬ s.TimedOut now := fun ⟨ha, _⟩ => by
  cases hr.symm.trans ha

/-- A lone sync byte never times out (R111). -/
theorem State.not_timedOut_of_cnt_zero (hc : s.cnt = 0) : ¬ s.TimedOut now := fun ⟨_, h1, _⟩ => by
  simp [hc] at h1

theorem State.housekeep_of_timedOut (h : s.TimedOut now) :
    (s.housekeep now).rstate = .scan ∧ (s.housekeep now).cnt = 0 ∧ (s.housekeep now).evt = .frameTimeout := by
  rcases s.housekeep_cases now with ⟨_, e⟩ | ⟨hn, _⟩
  · rw [e]
    exact ⟨rfl, rfl, rfl⟩
  · exact absurd h hn

theorem State.housekeep_of_not_timedOut (h : ¬ s.TimedOut now) :
    s.SameReader (s.housekeep now) ∧ (s.housekeep now).evt = .none := by
  rcases s.housekeep_cases now with ⟨ht, _⟩ | ⟨_, e⟩
  · exact absurd ht h
  · obtain ⟨hreader, _, _, _, _, hevt, _⟩ := s.polled_fields now
    rw [e]
    exact ⟨hreader, hevt⟩

/-- Row SCAN, any byte but the sync byte. -/
theorem State.row_drop (hr : s.rstate = .scan) (hc : s.cnt = 0) (hb : b ≠ Config.sync) :
    ((s.housekeep now).receive b now).rstate = .scan ∧ ((s.housekeep now).receive b now).cnt = 0 ∧
    ((s.housekeep now).receive b now).evt = .none := by
  obtain ⟨⟨hr', hc', _, _⟩, hevt⟩ := State.housekeep_of_not_timedOut (State.not_timedOut_of_scan (now := now) hr)
  rw [State.receive_drop (hr'.trans hr) hb]
  exact ⟨hr'.trans hr, hc'.trans hc, hevt⟩

/-- Row SCAN, the sync byte. -/
theorem State.row_sync (hr : s.rstate = .scan) (hb : b = Config.sync) :
    ((s.housekeep now).receive b now).rstate = .assemble ∧ ((s.housekeep now).receive b now).cnt = 0 ∧
    ((s.housekeep now).receive b now).evt = .none := by
  obtain ⟨⟨hr', _⟩, hevt⟩ := State.housekeep_of_not_timedOut (State.not_timedOut_of_scan (now := now) hr)
  rw [State.receive_sync (hr'.trans hr) hb]
  exact ⟨rfl, rfl, hevt⟩

/-- Row ASSEMBLE, `CNT` = 0: the first byte after the sync byte. -/
theorem State.row_first (hr : s.rstate = .assemble) (hc : s.cnt = 0) :
    ((s.housekeep now).receive b now).rstate = .assemble ∧ ((s.housekeep now).receive b now).cnt = 1 ∧
    ((s.housekeep now).receive b now).buf[1] = b ∧ ((s.housekeep now).receive b now).base = now ∧
    ((s.housekeep now).receive b now).evt = .none := by
  obtain ⟨⟨hr', hc', _, _⟩, hevt⟩ :=
    State.housekeep_of_not_timedOut (State.not_timedOut_of_cnt_zero (now := now) hc)
  obtain ⟨hbase, hcnt, hbuf⟩ := State.takeFirst_fields (hc'.trans hc) b now
  rw [State.receive_first (hr'.trans hr) (hc'.trans hc)]
  exact ⟨hr'.trans hr, hcnt, hbuf, hbase, hevt⟩

/-- Row ASSEMBLE, `CNT` = 1 to 7, inside the window. -/
theorem State.row_mid (hr : s.rstate = .assemble) (hn : ¬ s.TimedOut now) (h1 : 1 ≤ s.cnt.val)
    (h7 : s.cnt.val ≤ 7) :
    ((s.housekeep now).receive b now).rstate = .assemble ∧
    ((s.housekeep now).receive b now).cnt.val = s.cnt.val + 1 ∧
    ((s.housekeep now).receive b now).evt = .none := by
  obtain ⟨⟨hr', hc', _, _⟩, hevt⟩ := State.housekeep_of_not_timedOut hn
  have hcnt : (nextCnt (s.housekeep now).cnt).val = s.cnt.val + 1 := by
    rw [hc']
    exact nextCnt_of_lt (by omega)
  rw [State.receive_mid (hr'.trans hr) (hc' ▸ h1) (hc' ▸ h7)]
  exact ⟨hr'.trans hr, hcnt, hevt⟩

/-- Row ASSEMBLE, `CNT` = 8, inside the window. -/
theorem State.row_last (hr : s.rstate = .assemble) (hn : ¬ s.TimedOut now) (hc : s.cnt = 8) :
    ((s.housekeep now).receive b now).rstate = .scan ∧ ((s.housekeep now).receive b now).cnt = 0 ∧
    (csumOf (payloadOf s.buf) = b → ((s.housekeep now).receive b now).evt = .frameOk) ∧
    (csumOf (payloadOf s.buf) ≠ b → ((s.housekeep now).receive b now).evt = .checksumMismatch) := by
  obtain ⟨⟨hr', hc', hbuf, _⟩, _⟩ := State.housekeep_of_not_timedOut hn
  obtain ⟨hscan, hzero, _⟩ := (s.housekeep now).takeLast_common b now
  rw [State.receive_last (hr'.trans hr) (hc'.trans hc), ← hbuf]
  refine ⟨hscan, hzero, fun h => ?_, fun h => ?_⟩
  · rw [State.takeLast_of_match (hc'.trans hc) h]
    rfl
  · rw [State.takeLast_of_mismatch (hc'.trans hc) h]
    rfl

/-- Rows ASSEMBLE with the window exceeded: the byte is handled in `SCAN` and the time-out stays reported (R171). -/
theorem State.row_timedOut (h : s.TimedOut now) :
    ((s.housekeep now).receive b now).cnt = 0 ∧ ((s.housekeep now).receive b now).evt = .frameTimeout ∧
    s.SameDuties ((s.housekeep now).receive b now) ∧
    (b ≠ Config.sync → ((s.housekeep now).receive b now).rstate = .scan) ∧
    (b = Config.sync → ((s.housekeep now).receive b now).rstate = .assemble) := by
  obtain ⟨hscan, hcnt, hevt⟩ := State.housekeep_of_timedOut h
  obtain ⟨hduties, _⟩ := s.housekeep_frame now
  by_cases hb : b = Config.sync
  · rw [State.receive_sync hscan hb]
    exact ⟨rfl, hevt, hduties, fun hne => absurd hb hne, fun _ => rfl⟩
  · rw [State.receive_drop hscan hb]
    exact ⟨hcnt, hevt, hduties, fun _ => hscan, fun he => absurd he hb⟩

end

/-- Settles O34: one lemma per row of R109, the invariant giving the clock premise and `CNT` = 0 in `SCAN`. -/
theorem readerTransitionTable : Obligations.ReaderTransitionTable := by
  unfold Obligations.ReaderTransitionTable
  intro now s hi hp
  have ht := hi.timeOk hp
  constructor
  · refine ⟨_, exec_stepIdle_ok ht, fun hr => ?_, fun hr hn => ?_, fun h => State.housekeep_of_timedOut h⟩
    · obtain ⟨⟨hr', hc', _, _⟩, hevt⟩ := State.housekeep_of_not_timedOut
        (s := { s with lastNow := some now }) (State.not_timedOut_of_scan (now := now) hr)
      exact ⟨hr'.trans hr, hc'.trans (hi.scan_cnt hr), hevt⟩
    · obtain ⟨⟨hr', hc', _, _⟩, hevt⟩ := State.housekeep_of_not_timedOut
        (s := { s with lastNow := some now }) hn
      exact ⟨hr'.trans hr, hc', hevt⟩
  · intro b
    refine ⟨_, exec_stepRx_ok ht, fun hr hb => State.row_drop hr (hi.scan_cnt hr) hb,
      fun hr hb => State.row_sync hr hb, fun hr hc => ?_, fun hr hn h1 h7 => State.row_mid hr hn h1 h7,
      fun hr hn hc => State.row_last hr hn hc, fun h hb => ?_, fun h hb => ?_⟩
    · obtain ⟨hr', hc', _, hbase, hevt⟩ :=
        State.row_first (s := { s with lastNow := some now }) (b := b) (now := now) hr hc
      exact ⟨hr', hc', hbase, hevt⟩
    · obtain ⟨hc', hevt, _, hscan, _⟩ :=
        State.row_timedOut (s := { s with lastNow := some now }) (b := b) (now := now) h
      exact ⟨hscan hb, hc', hevt⟩
    · obtain ⟨hc', hevt, _, _, hopen⟩ :=
        State.row_timedOut (s := { s with lastNow := some now }) (b := b) (now := now) h
      exact ⟨hopen hb, hc', hevt⟩

/-- Settles O9: 100000 is row ASSEMBLE, `CNT` = 8 inside the window; 100001 is the row of the time-out. -/
theorem windowBoundaryIsStrict : Obligations.WindowBoundaryIsStrict := by
  unfold Obligations.WindowBoundaryIsStrict
  intro b now s hr hc ht hsum
  refine ⟨_, exec_stepRx_ok ht, fun hel => ?_, fun hel => ?_⟩
  · have hn : ¬ s.TimedOut now := fun ⟨_, _, hlate⟩ => by omega
    obtain ⟨_, _, hok, _⟩ := State.row_last (s := { s with lastNow := some now }) (b := b) hr hn hc
    exact hok hsum
  · have h : s.TimedOut now := ⟨hr, by simp [hc], by omega⟩
    obtain ⟨_, hevt, hduties, _⟩ := State.row_timedOut (s := { s with lastNow := some now }) (b := b) h
    exact ⟨hevt, hduties⟩

/-! ### A lone sync byte (R111) -/

/-- The reader holds a sync byte and nothing after it, and the last step reported nothing. -/
structure State.Waiting (s : State) : Prop where
  rstate : s.rstate = .assemble
  cnt : s.cnt = 0
  evt : s.evt = .none

section
variable {s : State} {b : Byte} {now last : Time} {rest : List Input}

/-- While a lone sync byte waits, `BASE` is not read, so P-1 and P-2 are enough. -/
theorem State.Waiting.timeOk (hw : s.Waiting) (hp : s.Premises now) :
    State.TimeOk { s with script := rest } now where
  monotonic := hp.monotonic
  fits := hp.fits
  window := fun _ h1 => by simp [hw.cnt] at h1

/-- A step without a byte leaves the reader waiting. -/
theorem State.Waiting.step_idle (hw : s.Waiting) (hp : s.Premises now) (hs : s.script = idleInput now :: rest) :
    ∃ t, step s = .next t ∧ t.Waiting ∧ t.lastNow = some now ∧ t.script = rest := by
  obtain ⟨⟨hr, hc, _, _⟩, hevt⟩ := State.housekeep_of_not_timedOut
    (s := { s with script := rest, lastNow := some now }) (State.not_timedOut_of_cnt_zero (now := now) hw.cnt)
  obtain ⟨_, _, _, ⟨_, _, hscript⟩, hlast⟩ :=
    State.housekeep_frame { s with script := rest, lastNow := some now } now
  refine ⟨_, (step_cons hs (decodeInput_idleInput now)).trans (exec_stepIdle_ok (hw.timeOk hp)), ?_, hlast, hscript⟩
  exact ⟨hr.trans hw.rstate, hc.trans hw.cnt, hevt⟩

/-- The next byte, whatever it is, is taken as the first of the payload. -/
theorem State.Waiting.step_byte (hw : s.Waiting) (hp : s.Premises now) (hs : s.script = byteInput b now :: rest) :
    ∃ u, step s = .next u ∧ u.rstate = .assemble ∧ u.cnt = 1 ∧ u.buf[1] = b ∧ u.base = now ∧ u.evt = .none :=
  ⟨_, (step_cons hs (decodeInput_byteInput b now)).trans (exec_stepRx_ok (hw.timeOk hp)),
    State.row_first (s := { s with script := rest, lastNow := some now }) hw.rstate hw.cnt⟩

/-- Any number of steps without a byte, at times in order up to `last`, leave the reader waiting and `last` a time for the
next step. -/
theorem State.Waiting.run_idle (hfits : last.toNat + 500000 < 2 ^ 64) (times : List Time) :
    ∀ s : State, s.Waiting → (times ++ [last]).Pairwise (fun x y => x.toNat ≤ y.toNat) →
      (∀ t x, s.lastNow = some t → x ∈ times ++ [last] → t.toNat ≤ x.toNat) →
      s.script = times.map idleInput ++ rest →
      ∃ t : State, Host.Core.run Sys2Proof.core times.length s = .next t ∧
        t.Waiting ∧ t.Premises last ∧ t.script = rest := by
  induction times with
  | nil =>
    intro s hw _ hlast hs
    exact ⟨s, rfl, hw, ⟨fun t ht => hlast t last ht (by simp), hfits⟩, hs⟩
  | cons now times ih =>
    intro s hw hord hlast hs
    obtain ⟨hnow, hord'⟩ := List.pairwise_cons.mp hord
    have hle : now.toNat ≤ last.toNat := hnow last (by simp)
    have hp : s.Premises now := ⟨fun t ht => hlast t now ht (by simp), by omega⟩
    obtain ⟨t, hstep, hw', hlast', hs'⟩ := hw.step_idle hp hs
    rw [List.length_cons, run_succ hstep]
    refine ih t hw' hord' (fun t' x ht' hx => ?_) hs'
    obtain rfl := Option.some.inj (hlast'.symm.trans ht')
    exact hnow x hx

end

/-- Settles O37: the run of idle steps by induction on the times (`State.Waiting.run_idle`), then the byte. -/
theorem loneSyncNeverTimesOut : Obligations.LoneSyncNeverTimesOut := by
  unfold Obligations.LoneSyncNeverTimesOut
  intro times last b s hr hc hevt hord hfits hlast hs
  obtain ⟨t, hrun, hw, hp, hs'⟩ := State.Waiting.run_idle hfits times s ⟨hr, hc, hevt⟩ hord hlast hs
  obtain ⟨u, hstep, hbyte⟩ := hw.step_byte hp hs'
  exact ⟨t, u, hrun, hw.rstate, hw.cnt, hw.evt, hstep, hbyte⟩

/-! ### Outcomes and open assemblies (R115) -/

section
variable {s : State} {now : Time}

theorem State.openFrames_of_scan (hr : s.rstate = .scan) : s.openFrames = 0 := by
  simp [State.openFrames, hr]

theorem State.openFrames_of_assemble (hr : s.rstate = .assemble) : s.openFrames = 1 := if_pos hr

theorem State.outcomes_of_none (he : s.evt = .none) : s.outcomes = 0 := if_pos he

theorem State.outcomes_of_ne_none (he : s.evt ≠ .none) : s.outcomes = 1 := if_neg he

/-- An open assembly stays open or is closed with one outcome, which leaves the reader in `SCAN`. -/
theorem State.housekeep_accounts (s : State) (now : Time) :
    (s.housekeep now).outcomes + (s.housekeep now).openFrames = s.openFrames ∧
    ((s.housekeep now).rstate = .scan ↔ s.rstate = .scan ∨ s.TimedOut now) ∧
    ((s.housekeep now).rstate = .assemble → (s.housekeep now).evt = .none) := by
  by_cases h : s.TimedOut now
  · obtain ⟨hr, _, hevt⟩ := State.housekeep_of_timedOut h
    have hne : (s.housekeep now).evt ≠ .none := by simp [hevt]
    rw [State.outcomes_of_ne_none hne, State.openFrames_of_scan hr, State.openFrames_of_assemble h.1]
    simp [hr, h]
  · obtain ⟨⟨hr, _⟩, hevt⟩ := State.housekeep_of_not_timedOut h
    rw [State.outcomes_of_none hevt]
    simp [State.openFrames, hr, hevt, h]

/-- Outcomes and open assemblies grow by one with a sync byte in `SCAN`, and not with any other byte. -/
theorem State.receive_accounts (b : Byte) (now : Time) (hevt : s.rstate = .assemble → s.evt = .none) :
    (s.receive b now).outcomes + (s.receive b now).openFrames =
      s.outcomes + s.openFrames + if b = Config.sync ∧ s.rstate = .scan then 1 else 0 := by
  have hno (hr : s.rstate = .assemble) : ¬ (b = Config.sync ∧ s.rstate = .scan) := fun h => by
    simp [hr] at h
  rcases s.receive_cases b now with ⟨hr, hb, e⟩ | ⟨hr, hb, e⟩ | ⟨hr, _, e⟩ | ⟨hr, _, _, e⟩ | ⟨hr, _, e⟩ <;> rw [e]
  · rw [if_pos ⟨hb, hr⟩, State.openFrames_of_scan hr]
    rfl
  · rw [if_neg fun h => hb h.1, Nat.add_zero]
  · rw [if_neg (hno hr)]
    rfl
  · rw [if_neg (hno hr)]
    rfl
  · rw [if_neg (hno hr), State.outcomes_of_none (hevt hr), State.openFrames_of_assemble hr]
    rcases s.takeLast_cases b now with ⟨p, _, e⟩ | ⟨_, e⟩ <;> rw [e] <;> rfl

end

/-- Settles O38: the accounts of the step's first part and of its RX operation, one after the other. -/
theorem oneOutcomePerAcceptedSync : Obligations.OneOutcomePerAcceptedSync := by
  unfold Obligations.OneOutcomePerAcceptedSync
  intro b now s ht
  obtain ⟨hsum, hscan, hevt⟩ := State.housekeep_accounts { s with lastNow := some now } now
  have hrx := State.receive_accounts b now hevt
  rw [hsum] at hrx
  refine ⟨⟨_, exec_stepIdle_ok ht, hsum⟩, _, exec_stepRx_ok ht, fun ⟨hb, hopen⟩ => ?_, fun hno => ?_⟩
  · exact hrx.trans (congrArg (s.openFrames + ·) (if_pos ⟨hb, hscan.mpr hopen⟩))
  · exact hrx.trans (congrArg (s.openFrames + ·) (if_neg fun ⟨hb, h⟩ => hno ⟨hb, hscan.mp h⟩))

/-! ### No step stops (R114, R195) -/

section
variable {s : State} {now : Time}

/-- The inputs to come play no part in the premises on the clock. -/
theorem State.TimeOk.dropInput (ht : s.TimeOk now) (rest : List Input) :
    State.TimeOk { s with script := rest } now :=
  ⟨⟨ht.monotonic, ht.fits⟩, ht.window⟩

theorem exec_stepIdle_script (ht : s.TimeOk now) : ∃ t, exec (.stepIdle now) s = .next t ∧ t.script = s.script := by
  obtain ⟨_, _, _, ⟨_, _, hscript⟩, _⟩ := State.housekeep_frame { s with lastNow := some now } now
  exact ⟨_, exec_stepIdle_ok ht, hscript⟩

theorem exec_stepRx_script (b : Byte) (ht : s.TimeOk now) :
    ∃ t, exec (.stepRx b now) s = .next t ∧ t.script = s.script := by
  obtain ⟨_, _, _, ⟨_, _, hscript⟩, _⟩ := State.housekeep_frame { s with lastNow := some now } now
  obtain ⟨⟨_, _, hscript'⟩, _⟩ := (State.housekeep { s with lastNow := some now } now).receive_own b now
  exact ⟨_, exec_stepRx_ok ht, hscript'.trans hscript⟩

end

/-- Settles O41: RESET needs no premise; for a STEP the invariant turns P-1 and P-2 into the guard's condition. -/
theorem blockNeverStops : Obligations.BlockNeverStops := by
  unfold Obligations.BlockNeverStops
  intro s word now rest hi hs hp
  rw [step_cons hs rfl]
  cases h9 : word.getLsbD 9 with
  | true =>
    rw [decodeStim_of_rst h9, exec_reset]
    exact ⟨_, rfl, rfl⟩
  | false =>
    have ht : State.TimeOk { s with script := rest } now := (hi.timeOk (hp h9)).dropInput rest
    rw [decodeStim_of_rst_clear h9]
    split
    · exact exec_stepRx_script _ ht
    · exact exec_stepIdle_script ht

end Sys2Proof.Machine
end

section
/-! SUPPORT. The obligations about the Frame Validator (R130 to R135). The checksum and the validator's condition are both the
exclusive-or of a list of bytes; what a list's exclusive-or is, bit by bit, under a permutation and after one byte is changed,
is said once (`xorOf`), and each law follows. -/

namespace Sys2Proof.Machine

/-! ### The exclusive-or of a list of bytes -/

/-- The exclusive-or of the bytes of a list. -/
def xorOf (bs : List Byte) : Byte := bs.foldr (· ^^^ ·) 0#8

@[simp] theorem xorOf_nil : xorOf [] = 0#8 := rfl

@[simp] theorem xorOf_cons (b : Byte) (bs : List Byte) : xorOf (b :: bs) = b ^^^ xorOf bs := rfl

theorem xorOf_perm {bs cs : List Byte} (h : bs.Perm cs) : xorOf bs = xorOf cs := h.foldr_op_eq

/-- Bit `j` is the parity of the bytes that have bit `j` set. -/
theorem xorOf_getLsbD (bs : List Byte) (j : Nat) :
    (xorOf bs).getLsbD j = true ↔ (bs.countP fun b => b.getLsbD j) % 2 = 1 := by
  induction bs with
  | nil => simp
  | cons b bs ih =>
    rw [xorOf_cons, BitVec.getLsbD_xor, List.countP_cons]
    cases hb : b.getLsbD j with
    | false => simpa using ih
    | true =>
      rw [Bool.true_xor, Bool.not_eq_true', ← Bool.not_eq_true, ih]
      simp only [if_true]
      omega

/-- Changing one byte by `d` changes the exclusive-or by `d`. -/
theorem xorOf_flip (bs : List Byte) (i : Nat) (h : i < bs.length) (d : Byte) :
    xorOf (bs.set i (bs[i] ^^^ d)) = xorOf bs ^^^ d := by
  induction bs generalizing i with
  | nil => exact absurd h (Nat.not_lt_zero i)
  | cons c cs ih =>
    cases i with
    | zero =>
      simp only [List.set_cons_zero, List.getElem_cons_zero, xorOf_cons]
      ac_rfl
    | succ i =>
      simp only [List.set_cons_succ, List.getElem_cons_succ, xorOf_cons, ih i (Nat.lt_of_succ_lt_succ h)]
      ac_rfl

/-- The bytes of a payload or a frame, by index. -/
theorem toList_eq_ofFn {n : Nat} (v : Vector Byte n) : v.toList = List.ofFn fun k : Fin n => v[k] := by
  rw [← Vector.toList_ofFn]
  exact congrArg Vector.toList Vector.ofFn_getElem.symm

/-! ### CSUM (R130, R133) -/

theorem csumOf_eq_xorOf (p : Payload) : csumOf p = xorOf p.toList := by
  simp [toList_eq_ofFn, csumOf, BitVec.xor_assoc]

theorem csumOf_permute (p : Payload) (σ : Equiv.Perm (Fin 8)) :
    csumOf (Vector.ofFn fun k => p[σ k]) = csumOf p := by
  rw [csumOf_eq_xorOf, csumOf_eq_xorOf, Vector.toList_ofFn, toList_eq_ofFn p]
  exact xorOf_perm (σ.ofFn_comp_perm fun k => p[k])

/-- Changing one byte by `d` changes the checksum by `d` (R133 d). -/
theorem csumOf_flip (p : Payload) (i : Fin 8) (d : Byte) : csumOf (p.set i (p[i] ^^^ d)) = csumOf p ^^^ d := by
  rw [csumOf_eq_xorOf, csumOf_eq_xorOf, Vector.toList_set]
  exact xorOf_flip p.toList i (by simp) d

/-- Taking a byte out of the checksum leaves that of the other seven (R133 c). -/
theorem csumOf_clear (p : Payload) (i : Fin 8) : csumOf (p.set i 0#8) = csumOf p ^^^ p[i] := by
  rw [← csumOf_flip, BitVec.xor_self]

/-- Settles O19: the checksum is a list's exclusive-or (`csumOf_eq_xorOf`), whose bits are parities (`xorOf_getLsbD`). -/
theorem csumIsBitwiseParity : Obligations.CsumIsBitwiseParity := by
  unfold Obligations.CsumIsBitwiseParity
  intro p s
  refine ⟨csumOf p, exec_csum p s, rfl, fun j _ => ?_⟩
  rw [csumOf_eq_xorOf]
  exact xorOf_getLsbD p.toList j

/-! ### VALIDATE (R131, R133 e) -/

/-- The exclusive-or of the nine bytes that VALIDATE examines, bytes 1 to 9. -/
def frameXor (f : Frame) : Byte := xorOf (f.toList.drop 1)

theorem frameXor_eq_csumOf (f : Frame) : frameXor f = csumOf (payloadOf f) ^^^ f[9] := by
  simp [frameXor, toList_eq_ofFn, csumOf, payloadOf, BitVec.xor_assoc]

theorem frameXor_eq (f : Frame) :
    frameXor f = f[1] ^^^ f[2] ^^^ f[3] ^^^ f[4] ^^^ f[5] ^^^ f[6] ^^^ f[7] ^^^ f[8] ^^^ f[9] :=
  frameXor_eq_csumOf f

theorem frameXor_eq_zero {f : Frame} : frameXor f = 0#8 ↔ csumOf (payloadOf f) = f[9] := by
  rw [frameXor_eq_csumOf, BitVec.xor_eq_zero_iff]

theorem validateFrame_accepts {f : Frame} (h : frameXor f = 0#8) : validateFrame f = .ok (payloadOf f) :=
  validateFrame_eq_ok.mpr ⟨frameXor_eq_zero.mp h, rfl⟩

theorem validateFrame_rejects {f : Frame} (h : frameXor f ≠ 0#8) : validateFrame f = .checksumMismatch :=
  validateFrame_eq_mismatch.mpr fun hc => h (frameXor_eq_zero.mpr hc)

theorem frameXor_of_ok {f : Frame} {p : Payload} (h : validateFrame f = .ok p) : frameXor f = 0#8 :=
  frameXor_eq_zero.mpr (validateFrame_eq_ok.mp h).1

/-- Changing one examined byte by `d` changes the exclusive-or by `d`. -/
theorem frameXor_flip (f : Frame) {i : Fin 10} (hi : i ≠ 0) (d : Byte) :
    frameXor (f.set i (f[i] ^^^ d)) = frameXor f ^^^ d := by
  obtain ⟨k, rfl⟩ := Fin.exists_succ_eq.mpr hi
  have h := xorOf_flip (f.toList.drop 1) k (by simp) d
  rw [List.getElem_drop, List.set_drop] at h
  simpa [frameXor, Vector.toList_set, Nat.add_comm 1] using h

/-- What two frames differ by. -/
theorem frameXor_xor (f g : Frame) : frameXor f ^^^ frameXor g =
    (f[1] ^^^ g[1]) ^^^ (f[2] ^^^ g[2]) ^^^ (f[3] ^^^ g[3]) ^^^ (f[4] ^^^ g[4]) ^^^ (f[5] ^^^ g[5]) ^^^
      (f[6] ^^^ g[6]) ^^^ (f[7] ^^^ g[7]) ^^^ (f[8] ^^^ g[8]) ^^^ (f[9] ^^^ g[9]) := by
  rw [frameXor_eq, frameXor_eq]
  ac_rfl

/-- Settles O20: the two verdicts (R131), and `validateFrame_congr` for byte 0 (R132). -/
theorem validateAcceptsExactlyMatchingChecksum : Obligations.ValidateAcceptsExactlyMatchingChecksum := by
  unfold Obligations.ValidateAcceptsExactlyMatchingChecksum
  intro f s
  refine ⟨validateFrame f, exec_validate f s, fun h => validateFrame_eq_ok.mpr ⟨h, rfl⟩,
    fun h => validateFrame_eq_mismatch.mpr h, fun b => ?_⟩
  have hv : validateFrame (f.set 0 b) = validateFrame f := validateFrame_congr fun i hi => by
    have h0 : 0 ≠ i.val := by omega
    simp [h0]
  rw [exec_validate, exec_validate, hv]

/-- Settles O21: `csumOf_permute`, `csumOf_clear`, `csumOf_flip`, and the validator's condition as `frameXor f = 0`. -/
theorem checksumLaws : Obligations.ChecksumLaws := by
  unfold Obligations.ChecksumLaws
  refine ⟨csumOf_permute, fun x => ⟨BitVec.xor_self, BitVec.xor_zero⟩, fun p i => (csumOf_clear p i).symm,
    csumOf_flip, fun f => ?_⟩
  rw [← frameXor_eq]
  exact ⟨fun ⟨_, h⟩ => frameXor_of_ok h, fun h => ⟨_, validateFrame_accepts h⟩⟩

/-- Settles O22: the exclusive-or of a valid frame is 0, and that of the changed frame is the difference. -/
theorem singleByteCorruptionIsDetected : Obligations.SingleByteCorruptionIsDetected := by
  unfold Obligations.SingleByteCorruptionIsDetected
  intro f p hv i d hi hd
  apply validateFrame_rejects
  rwa [frameXor_flip f hi, frameXor_of_ok hv, BitVec.zero_xor]

/-- Settles O23: differences that cancel leave the exclusive-or at 0. -/
theorem cancellingCorruptionIsAccepted : Obligations.CancellingCorruptionIsAccepted := by
  unfold Obligations.CancellingCorruptionIsAccepted
  intro f p hv
  have hf := frameXor_of_ok hv
  refine ⟨fun g hg => ?_, fun i j d hi hj hij => ?_⟩
  · rw [← frameXor_xor, hf, BitVec.zero_xor] at hg
    exact validateFrame_accepts hg
  · have hkept : f[j] = (f.set i (f[i] ^^^ d))[j] :=
      (Vector.getElem_set_ne i.isLt j.isLt fun h => hij (Fin.ext h)).symm
    apply validateFrame_accepts
    rw [hkept, frameXor_flip _ hj, frameXor_flip f hi, hf, BitVec.zero_xor, BitVec.xor_self]

end Sys2Proof.Machine
end

section
/-! SUPPORT. The obligations about SPLIT and MAP (R141 to R144): both sides of SPLIT as one expression, its bit-level
realisation, MAP's frame and absorption, and the refusal of commands outside [-128, 127]. -/

namespace Sys2Proof.Machine

/-! ### Both sides of SPLIT as duties of truncated magnitudes (R141) -/

@[simp] theorem dutyOf_zero : dutyOf 0 = 0#8 := rfl

/-- `Int.toNat` is 0 on the side away from the command's sign. -/
theorem splitDuty_eq (v : Int) : splitDuty v = (dutyOf v.toNat, dutyOf (-v).toNat) := by
  rcases lt_trichotomy v 0 with h | h | h
  · rw [splitDuty_of_neg h, Int.toNat_of_nonpos h.le, dutyOf_zero]
  · subst h
    rfl
  · rw [splitDuty_of_pos h, Int.toNat_of_nonpos (Int.neg_nonpos_of_nonneg h.le), dutyOf_zero]

theorem splitDuty_fwd_toNat (v : Int) : (splitDuty v).1.toNat = min (2 * v.toNat) 254 := by
  rw [splitDuty_eq, dutyOf_toNat]

theorem splitDuty_rev_toNat (v : Int) : (splitDuty v).2.toNat = min (2 * (-v).toNat) 254 := by
  rw [splitDuty_eq, dutyOf_toNat]

/-- The exact duties of a command in the words of R141. -/
theorem splitDuty_saturates (v : Int) :
    (v > 0 → ((splitDuty v).1.toNat : Int) = min (2 * v) 254 ∧ (splitDuty v).2 = 0#8) ∧
    (v < 0 → (splitDuty v).1 = 0#8 ∧ ((splitDuty v).2.toNat : Int) = min (2 * (-v)) 254) ∧
    (v = 0 → (splitDuty v).1 = 0#8 ∧ (splitDuty v).2 = 0#8) := by
  refine ⟨fun h => ⟨?_, by rw [splitDuty_of_pos h]⟩, fun h => ⟨by rw [splitDuty_of_neg h], ?_⟩, ?_⟩
  · rw [splitDuty_fwd_toNat]
    omega
  · rw [splitDuty_rev_toNat]
    omega
  · rintro rfl
    exact ⟨rfl, rfl⟩

/-- Settles O14: SPLIT answers `splitDuty v`, whose exact values are `splitDuty_saturates`. -/
theorem splitGivesSaturatedDuties : Obligations.SplitGivesSaturatedDuties := by
  unfold Obligations.SplitGivesSaturatedDuties
  intro v s hmin hmax
  exact ⟨_, _, exec_split_ok ⟨hmin, hmax⟩ s, splitDuty_saturates v⟩

/-! ### The laws of SPLIT (R142 f, g, h) -/

theorem splitDuty_fwd_add_rev (v : Int) :
    (((splitDuty v).1.toNat + (splitDuty v).2.toNat : Nat) : Int) = min (2 * |v|) 254 := by
  rw [splitDuty_fwd_toNat, splitDuty_rev_toNat, Int.abs_eq_natAbs]
  omega

theorem splitDuty_neg (v : Int) : splitDuty (-v) = ((splitDuty v).2, (splitDuty v).1) := by
  rw [splitDuty_eq, splitDuty_eq, neg_neg]

theorem splitDuty_fwd_monotone {v w : Int} (h : v ≤ w) : (splitDuty v).1.toNat ≤ (splitDuty w).1.toNat := by
  rw [splitDuty_fwd_toNat, splitDuty_fwd_toNat]
  omega

theorem splitDuty_rev_antitone {v w : Int} (h : v ≤ w) : (splitDuty w).2.toNat ≤ (splitDuty v).2.toNat := by
  rw [splitDuty_rev_toNat, splitDuty_rev_toNat]
  omega

/-! ### The bit-level realisation of SPLIT (R142 a to e) -/

/-- The magnitude of a signed byte by two's complement (R142 b). -/
def magnitude (b : Byte) : Byte := if b.getLsbD 7 then ~~~b + 1#8 else b

/-- The magnitude doubled in nine bits (R142 c). -/
def doubled (m : Byte) : BitVec 9 := m.zeroExtend 9 <<< 1

/-- The doubled magnitude saturated to a duty (R142 d). -/
def saturated (d : BitVec 9) : Byte := if 254 < d.toNat then 254#8 else d.truncate 8

theorem signBit_iff_toNat (b : Byte) : b.getLsbD 7 = true ↔ 128 ≤ b.toNat := by
  have hmsb : b.getLsbD 7 = decide (128 ≤ b.toNat) := BitVec.msb_eq_decide b
  rw [hmsb, decide_eq_true_eq]

theorem signBit_iff (b : Byte) : b.getLsbD 7 = true ↔ s8 b < 0 := by
  rw [signBit_iff_toNat]
  unfold s8
  split <;> omega

theorem eq_zero_iff_s8 (b : Byte) : b = 0#8 ↔ s8 b = 0 :=
  ⟨fun h => h ▸ rfl, fun h => by rw [← u8_s8 b, h]; rfl⟩

theorem magnitude_toNat (b : Byte) : (magnitude b).toNat = (s8 b).natAbs := by
  have hlt := b.isLt
  unfold magnitude
  split
  next hneg =>
    have hhalf := (signBit_iff_toNat b).mp hneg
    rw [← BitVec.neg_eq_not_add, BitVec.toNat_neg, s8_of_le hhalf]
    omega
  next hpos =>
    have hhalf := not_le.mp (mt (signBit_iff_toNat b).mpr hpos)
    rw [s8_of_lt hhalf, Int.natAbs_natCast]

theorem magnitude_le (b : Byte) : (magnitude b).toNat ≤ 128 := by
  obtain ⟨hmin, hmax⟩ := s8_range b
  unfold Config.cmdMin at hmin
  unfold Config.cmdMax at hmax
  rw [magnitude_toNat]
  omega

theorem doubled_toNat (m : Byte) : (doubled m).toNat = 2 * m.toNat := by
  have hlt := m.isLt
  unfold doubled
  rw [BitVec.toNat_shiftLeft, BitVec.toNat_setWidth, Nat.shiftLeft_eq]
  omega

/-- The double is even, so it passes 254 exactly when it reaches 256. -/
theorem doubled_saturates_iff (m : Byte) : 254 < (doubled m).toNat ↔ (doubled m).getLsbD 8 = true := by
  have hmsb : (doubled m).getLsbD 8 = decide (256 ≤ (doubled m).toNat) := BitVec.msb_eq_decide (doubled m)
  rw [hmsb, decide_eq_true_eq, doubled_toNat]
  omega

theorem saturated_doubled (m : Byte) : saturated (doubled m) = dutyOf m.toNat := by
  apply BitVec.eq_of_toNat_eq
  rw [dutyOf_toNat]
  unfold saturated
  split
  next h =>
    rw [doubled_toNat] at h
    exact (min_eq_right h.le).symm
  next h =>
    rw [doubled_toNat] at h
    rw [BitVec.toNat_setWidth, doubled_toNat]
    omega

theorem splitDuty_s8 (b : Byte) :
    splitDuty (s8 b) = (if b.getLsbD 7 then 0#8 else saturated (doubled (magnitude b)),
      if b.getLsbD 7 then saturated (doubled (magnitude b)) else 0#8) := by
  rw [splitDuty_eq, saturated_doubled, magnitude_toNat]
  by_cases hneg : b.getLsbD 7 = true
  · have h := (signBit_iff b).mp hneg
    have hmag : (-s8 b).toNat = (s8 b).natAbs := by omega
    rw [if_pos hneg, if_pos hneg, Int.toNat_of_nonpos h.le, hmag, dutyOf_zero]
  · have h := not_lt.mp (mt (signBit_iff b).mpr hneg)
    have hmag : (s8 b).toNat = (s8 b).natAbs := by omega
    rw [if_neg hneg, if_neg hneg, Int.toNat_of_nonpos (Int.neg_nonpos_of_nonneg h), hmag, dutyOf_zero]

/-- Settles O15: the bit-level form is `splitDuty_s8`, step by step as in R142; each law holds of all integers. -/
theorem splitArithmeticLaws : Obligations.SplitArithmeticLaws := by
  unfold Obligations.SplitArithmeticLaws
  refine ⟨fun b => ?_, fun v _ _ => ?_, fun v _ _ => splitDuty_neg v,
    fun v w _ hvw _ => ⟨fun _ => splitDuty_fwd_monotone hvw, fun _ => splitDuty_rev_antitone hvw⟩⟩
  · exact ⟨signBit_iff b, eq_zero_iff_s8 b, magnitude_le b, doubled_toNat (magnitude b),
      doubled_saturates_iff (magnitude b), splitDuty_s8 b⟩
  · obtain ⟨hfwd, hfwdMax⟩ := splitDuty_fwd_even v
    obtain ⟨hrev, hrevMax⟩ := splitDuty_rev_even v
    exact ⟨splitDuty_one_direction v, hfwd, hrev, hfwdMax, hrevMax, splitDuty_fwd_add_rev v⟩

/-! ### MAP (R143, R144) -/

theorem State.mapDuties_frame (s : State) (cmd : CmdVec) :
    s.SameReader (s.mapDuties cmd) ∧ s.SameIndicator (s.mapDuties cmd) ∧ s.SameOutputs (s.mapDuties cmd) ∧
    s.SameOwn (s.mapDuties cmd) := by
  simp [State.SameReader, State.SameIndicator, State.SameOutputs, State.SameOwn]

/-- Settles O16: lane by lane `splitDuty_saturates`; the rest is MAP's frame. -/
theorem mapWritesEveryChannel : Obligations.MapWritesEveryChannel := by
  unfold Obligations.MapWritesEveryChannel
  intro cmd s hrange
  obtain ⟨hreader, hindicator, houtputs, hown⟩ := s.mapDuties_frame cmd
  refine ⟨_, exec_map_ok hrange s, fun k => ?_, hreader, hindicator, houtputs, hown, rfl⟩
  simpa using splitDuty_saturates cmd[k]

/-- MAP overwrites everything an earlier MAP wrote. -/
@[simp] theorem State.mapDuties_mapDuties (s : State) (v w : CmdVec) :
    (s.mapDuties v).mapDuties w = s.mapDuties w := rfl

/-- A sequence of MAPs leaves a state that the next MAP takes to where it takes the first state. -/
theorem maps_absorbed {firsts : List CmdVec} (h : ∀ v ∈ firsts, CmdVecInRange v) (s : State) :
    ∃ t, firsts.foldl (fun o v => andThen o (exec (.map v))) (.next s) = .next t ∧
      ∀ last, t.mapDuties last = s.mapDuties last := by
  induction firsts generalizing s with
  | nil => exact ⟨s, rfl, fun _ => rfl⟩
  | cons v vs ih =>
    obtain ⟨hv, hvs⟩ := List.forall_mem_cons.mp h
    obtain ⟨t, ht, hlast⟩ := ih hvs (s.mapDuties v)
    refine ⟨t, ?_, fun last => (hlast last).trans (s.mapDuties_mapDuties v last)⟩
    rw [List.foldl_cons, andThen_next, exec_map_ok hv, ht]

/-- Settles O17: `maps_absorbed`, and MAP as `mapDuties` from both states. -/
theorem mapIsHistoryFree : Obligations.MapIsHistoryFree := by
  unfold Obligations.MapIsHistoryFree
  intro firsts last s hfirsts hlast
  obtain ⟨t, ht, habsorbed⟩ := maps_absorbed hfirsts s
  refine ⟨t, s.mapDuties last, ht, ?_, exec_map_ok hlast s⟩
  rw [exec_map_ok hlast, habsorbed]

/-! ### Commands outside the domain (log 9, U2) -/

theorem exec_split_refused {v : Int} (h : ¬ CmdInRange v) (s : State) :
    exec (.split v) s = .refused (.outsideDomain .split) := if_neg h

theorem exec_map_refused {cmd : CmdVec} (h : ¬ CmdVecInRange cmd) (s : State) :
    exec (.map cmd) s = .refused (.outsideDomain .map) := if_neg h

theorem exec_encode_refused {v : CmdVec} (h : ¬ CmdVecInRange v) (s : State) :
    exec (.encode v) s = .refused (.outsideDomain .encode) := if_neg h

theorem not_cmdInRange_iff {v : Int} : ¬ CmdInRange v ↔ v < -128 ∨ 127 < v := by
  unfold CmdInRange Config.cmdMin Config.cmdMax
  omega

/-- Settles O47: the value, or the vector by one of its lanes, misses the domain that each of the three tests. -/
theorem commandOutsideDomainIsRefused : Obligations.CommandOutsideDomainIsRefused := by
  unfold Obligations.CommandOutsideDomainIsRefused
  intro v cmd s
  refine ⟨fun h => exec_split_refused (not_cmdInRange_iff.mpr h) s, fun ⟨k, hk⟩ => ?_⟩
  have hcmd : ¬ CmdVecInRange cmd := fun hall => not_cmdInRange_iff.mpr hk (hall k)
  exact ⟨exec_map_refused hcmd s, exec_encode_refused hcmd s⟩

end Sys2Proof.Machine
end

section
/-! SUPPORT. The obligations about the Status Indicator (R150 to R156): TRIGGER and POLL by themselves, the hold that a second
trigger restarts, and the transition table of one step. -/

namespace Sys2Proof.Machine

/-! ### TRIGGER and POLL (R150, R151) -/

section
variable {s : State} {now : Time}

theorem State.pollAt_of_expires (h : s.Expires now) :
    s.pollAt now = { s with active := false, color := .idle }.emit .idle :=
  if_pos ((s.expired_iff now).mpr h)

theorem State.pollAt_of_not_expires (h : ¬ s.Expires now) : s.pollAt now = s :=
  if_neg fun he => h ((s.expired_iff now).mp he)

end

/-- Settles O10: the fields of `State.showColor`; under P-2 the deadline does not wrap. -/
theorem triggerShowsColorAndRestartsHold : Obligations.TriggerShowsColorAndRestartsHold := by
  unfold Obligations.TriggerShowsColorAndRestartsHold
  intro c now s ht
  exact ⟨_, exec_trigger_ok ht, rfl, rfl, holdUntil_toNat ht.fits, rfl, rfl, rfl, ⟨rfl, rfl, rfl, rfl⟩, ⟨rfl, rfl⟩,
    ⟨rfl, rfl, rfl⟩, rfl⟩

/-- Settles O11: the two sides of POLL's condition. -/
theorem pollExpiresAtDeadline : Obligations.PollExpiresAtDeadline := by
  unfold Obligations.PollExpiresAtDeadline
  intro now s ht
  refine ⟨_, exec_poll_ok ht, fun h => ?_, fun h => State.pollAt_of_not_expires h⟩
  rw [State.pollAt_of_expires (s := { s with lastNow := some now }) h]
  exact ⟨rfl, rfl, rfl, rfl, rfl, rfl, ⟨rfl, rfl, rfl, rfl⟩, ⟨rfl, rfl⟩, ⟨rfl, rfl, rfl⟩, rfl⟩

/-! ### The hold of a trigger and its restart (R156) -/

/-- As of the reading `last` of the clock, the indicator shows what a trigger of the colour `c` with the deadline `d` asks
for: `c` before `d`, idle from `d` on. -/
structure State.ShowsUntil (s : State) (c : Color) (d last : Time) : Prop where
  before : last.toNat < d.toNat → s.active = true ∧ s.color = c ∧ s.deadline = d
  after : d.toNat ≤ last.toNat → s.active = false ∧ s.color = .idle

/-- `ShowsUntil`, and every reading of the clock from `last` on that meets P-2 meets the premises of R216. -/
structure State.HoldsUntil (s : State) (c : Color) (d last : Time) : Prop extends s.ShowsUntil c d last where
  timeOk : ∀ now : Time, last.toNat ≤ now.toNat → now.toNat + 500000 < 2 ^ 64 → s.TimeOk now

section
variable {s : State} {c : Color} {d last now : Time}

/-- TRIGGER starts a hold, whatever the indicator showed before. -/
theorem exec_trigger_holdsUntil (c : Color) (ht : s.TimeOk now) :
    ∃ t, exec (.trigger c now) s = .next t ∧ t.HoldsUntil c (holdUntil now) now := by
  refine ⟨_, exec_trigger_ok ht, ⟨fun _ => ⟨rfl, rfl, rfl⟩, fun hle => ?_⟩, fun now' hle hfits => ?_⟩
  · rw [holdUntil_toNat ht.fits] at hle
    omega
  · have hr := ht.record_of_le hle hfits
    exact ⟨⟨hr.monotonic, hr.fits⟩, hr.window⟩

/-- POLL makes what is shown right for its own reading of the clock. -/
theorem State.ShowsUntil.pollAt (h : s.ShowsUntil c d last) (hle : last.toNat ≤ now.toNat) :
    (s.pollAt now).ShowsUntil c d now where
  before := fun hnow => by
    obtain ⟨hactive, hcolor, hdeadline⟩ := h.before (by omega)
    have hexp : ¬ s.Expires now := fun ⟨_, hge⟩ => by
      rw [hdeadline] at hge
      omega
    rw [State.pollAt_of_not_expires hexp]
    exact ⟨hactive, hcolor, hdeadline⟩
  after := fun hnow => by
    by_cases hlast : last.toNat < d.toNat
    · obtain ⟨hactive, _, hdeadline⟩ := h.before hlast
      rw [State.pollAt_of_expires ⟨hactive, hdeadline ▸ hnow⟩]
      exact ⟨rfl, rfl⟩
    · obtain ⟨hactive, hcolor⟩ := h.after (by omega)
      rw [State.pollAt_of_inactive hactive]
      exact ⟨hactive, hcolor⟩

theorem State.HoldsUntil.poll (h : s.HoldsUntil c d last) (hle : last.toNat ≤ now.toNat)
    (hfits : now.toNat + 500000 < 2 ^ 64) : ∃ t, exec (.poll now) s = .next t ∧ t.HoldsUntil c d now := by
  have ht := h.timeOk now hle hfits
  have hrecorded : State.ShowsUntil { s with lastNow := some now } c d last := ⟨h.before, h.after⟩
  exact ⟨_, exec_poll_ok ht, hrecorded.pollAt hle, fun _ hle' hfits' => (ht.record_of_le hle' hfits').pollAt now⟩

/-- Polls at times in order, none later than `now`, keep the hold. -/
theorem State.HoldsUntil.polls (hfits : now.toNat + 500000 < 2 ^ 64) (times : List Time) :
    ∀ (s : State) (last : Time), s.HoldsUntil c d last →
      (last :: times ++ [now]).Pairwise (fun x y => x.toNat ≤ y.toNat) →
      ∃ t last', pollsAt times s = .next t ∧ t.HoldsUntil c d last' ∧ last'.toNat ≤ now.toNat := by
  induction times with
  | nil =>
    intro s last h hord
    exact ⟨s, last, rfl, h, List.rel_of_pairwise_cons hord (by simp)⟩
  | cons u times ih =>
    intro s last h hord
    obtain ⟨hlast, hord'⟩ := List.pairwise_cons.mp hord
    have hu : u.toNat ≤ now.toNat := List.rel_of_pairwise_cons hord' (by simp)
    obtain ⟨t, hpoll, ht⟩ := h.poll (hlast u (by simp)) (by omega)
    obtain ⟨t', last', hpolls, ht'⟩ := ih t u ht hord'
    refine ⟨t', last', ?_, ht'⟩
    rw [pollsAt, hpoll]
    exact hpolls

end

/-- Settles O12: the hold of the first trigger runs at least until `t2` (`State.HoldsUntil.polls`), the second trigger starts
one with the deadline `t2 + 500000`, and the polls after it keep that one. -/
theorem secondTriggerRestartsHold : Obligations.SecondTriggerRestartsHold := by
  unfold Obligations.SecondTriggerRestartsHold
  intro s t1 t2 now us ts ht1 hwithin hord hfits
  have hfirst : (t1 :: us ++ [t2]).Pairwise (fun a b => a.toNat ≤ b.toNat) := hord.sublist (by simp)
  have hsecond : (t2 :: ts ++ [now]).Pairwise (fun a b => a.toNat ≤ b.toNat) := hord.sublist (by simp)
  have ht2now : t2.toNat ≤ now.toNat := List.rel_of_pairwise_cons hsecond (by simp)
  have hfits2 : t2.toNat + 500000 < 2 ^ 64 := by omega
  obtain ⟨s1, htrigger1, h1⟩ := exec_trigger_holdsUntil .error ht1
  obtain ⟨s1', last1, hpolls1, h1', hlast1⟩ := h1.polls hfits2 us _ _ hfirst
  have hbefore : last1.toNat < (holdUntil t1).toNat := by
    rw [holdUntil_toNat ht1.fits]
    omega
  obtain ⟨_, herror, _⟩ := h1'.before hbefore
  obtain ⟨s2, htrigger2, h2⟩ := exec_trigger_holdsUntil .error (h1'.timeOk t2 hlast1 hfits2)
  obtain ⟨s3, last3, hpolls2, h3, hlast3⟩ := h2.polls hfits ts _ _ hsecond
  obtain ⟨s4, hpoll, h4⟩ := h3.poll hlast3 hfits
  have hd := holdUntil_toNat hfits2
  refine ⟨s1, s1', s2, s3, s4, htrigger1, hpolls1, herror, htrigger2, hpolls2, hpoll, fun hlt => ?_, fun hge => ?_⟩
  · obtain ⟨_, hcolor, _⟩ := h4.before (by omega)
    exact hcolor
  · obtain ⟨_, hcolor⟩ := h4.after (by omega)
    exact hcolor

/-! ### The transition table of one step (R154) -/

/-- From `p` to `t` no event is reported and the indicator and its writes stay. -/
structure State.Quiet (p t : State) : Prop where
  evt : t.evt = .none
  indicator : p.SameIndicator t
  dwr : t.dwr = p.dwr

/-- From `p` to `t` an event is reported and its colour triggered at `now` (R172). -/
structure State.Triggered (p t : State) (now : Time) : Prop where
  evt : t.evt ≠ .none
  active : t.active = true
  deadline : t.deadline = holdUntil now
  good : t.evt = .frameOk → t.color = .good
  error : t.evt ≠ .frameOk → t.color = .error
  dwr : t.dwr = p.dwr ++ [t.color]

section
variable {p t u : State} {now : Time}

theorem State.SameIndicator.trans (h : p.SameIndicator t) (h' : t.SameIndicator u) : p.SameIndicator u := by
  obtain ⟨hactive, hcolor, hdeadline⟩ := h
  obtain ⟨hactive', hcolor', hdeadline'⟩ := h'
  exact ⟨hactive'.trans hactive, hcolor'.trans hcolor, hdeadline'.trans hdeadline⟩

theorem State.Quiet.trans_same (h : p.Quiet t) (hi : t.SameIndicator u) (ho : t.SameOutputs u) : p.Quiet u := by
  obtain ⟨hevt, _, hdwr⟩ := ho
  exact ⟨hevt.trans h.evt, h.indicator.trans hi, hdwr.trans h.dwr⟩

theorem State.Triggered.trans_same (h : p.Triggered t now) (hi : t.SameIndicator u) (ho : t.SameOutputs u) :
    p.Triggered u now := by
  obtain ⟨hactive, hcolor, hdeadline⟩ := hi
  obtain ⟨hevt, _, hdwr⟩ := ho
  constructor <;> simp only [hactive, hcolor, hdeadline, hevt, hdwr]
  exacts [h.evt, h.active, h.deadline, h.good, h.error, h.dwr]

end

/-- After the POLL of a step, TCHK leaves the indicator or triggers it with a time-out. -/
theorem State.housekeep_indicator (s : State) (now : Time) :
    (s.beginStep.pollAt now).Quiet (s.housekeep now) ∨ (s.beginStep.pollAt now).Triggered (s.housekeep now) now := by
  rcases s.housekeep_cases now with ⟨_, e⟩ | ⟨_, e⟩ <;> rw [e]
  · exact .inr ⟨nofun, rfl, rfl, nofun, fun _ => rfl, rfl⟩
  · obtain ⟨_, _, _, _, _, hevt, _⟩ := s.polled_fields now
    exact .inl ⟨hevt, ⟨rfl, rfl, rfl⟩, rfl⟩

/-- The RX operation adds at most one trigger, and only where TCHK made none: an assembly still open has had no event. -/
theorem State.receive_housekeep_indicator (s : State) (b : Byte) (now : Time) :
    (s.beginStep.pollAt now).Quiet ((s.housekeep now).receive b now) ∨
    (s.beginStep.pollAt now).Triggered ((s.housekeep now).receive b now) now := by
  rcases (s.housekeep now).receive_indicator b now with
    ⟨hi, ho⟩ | ⟨hopen, _, hactive, hdeadline, hdwr, hverdict⟩
  · exact (s.housekeep_indicator now).imp (·.trans_same hi ho) (·.trans_same hi ho)
  · obtain ⟨_, _, hnoEvent⟩ := s.housekeep_accounts now
    have hquiet := (s.housekeep_indicator now).resolve_right fun h => h.evt (hnoEvent hopen)
    rw [hquiet.dwr] at hdwr
    rcases hverdict with ⟨hevt, hcolor⟩ | ⟨hevt, hcolor⟩
    · exact .inr ⟨by simp [hevt], hactive, hdeadline, fun _ => hcolor, fun hne => absurd hevt hne, hdwr⟩
    · exact .inr ⟨by simp [hevt], hactive, hdeadline, by simp [hevt], fun _ => hcolor, hdwr⟩

/-- What the POLL of a step shows and writes. -/
theorem State.polled_indicator (s : State) (now : Time) :
    (¬ s.Expires now → s.SameIndicator (s.beginStep.pollAt now) ∧ (s.beginStep.pollAt now).dwr = []) ∧
    (s.Expires now → (s.beginStep.pollAt now).active = false ∧ (s.beginStep.pollAt now).color = .idle ∧
      (s.beginStep.pollAt now).deadline = s.deadline ∧ (s.beginStep.pollAt now).dwr = [.idle]) := by
  constructor <;> intro h
  · rw [State.pollAt_of_not_expires (s := s.beginStep) h]
    exact ⟨⟨rfl, rfl, rfl⟩, rfl⟩
  · rw [State.pollAt_of_expires (s := s.beginStep) h]
    exact ⟨rfl, rfl, rfl, rfl⟩

/-- The rows of R154, for any state `t` that is quiet or triggered after the POLL of the step. -/
theorem State.indicator_rows {s t : State} {now : Time} (hfits : now.toNat + 500000 < 2 ^ 64)
    (h : (s.beginStep.pollAt now).Quiet t ∨ (s.beginStep.pollAt now).Triggered t now) :
    (t.evt = .none → ¬ s.Expires now → s.SameIndicator t ∧ t.dwr = []) ∧
    (t.evt = .none → s.Expires now →
      t.active = false ∧ t.color = .idle ∧ t.deadline = s.deadline ∧ t.dwr = [.idle]) ∧
    (t.evt ≠ .none → t.active = true ∧ t.deadline.toNat = now.toNat + 500000 ∧
      (t.evt = .frameOk → t.color = .good) ∧ (t.evt ≠ .frameOk → t.color = .error) ∧
      (¬ s.Expires now → t.dwr = [t.color]) ∧ (s.Expires now → t.dwr = [.idle, t.color])) := by
  obtain ⟨hkept, hexpired⟩ := s.polled_indicator now
  rcases h with ⟨hevt, hsame, hdwr⟩ | ⟨hevt, hactive, hdeadline, hgood, herror, hdwr⟩
  · refine ⟨fun _ hexp => ?_, fun _ hexp => ?_, fun hne => absurd hevt hne⟩
    · obtain ⟨hsame', hdwr'⟩ := hkept hexp
      exact ⟨hsame'.trans hsame, hdwr.trans hdwr'⟩
    · obtain ⟨hactive, hcolor, hdeadline⟩ := hsame
      obtain ⟨hactive', hcolor', hdeadline', hdwr'⟩ := hexpired hexp
      exact ⟨hactive.trans hactive', hcolor.trans hcolor', hdeadline.trans hdeadline', hdwr.trans hdwr'⟩
  · refine ⟨fun hnone => absurd hnone hevt, fun hnone => absurd hnone hevt, fun _ => ⟨hactive,
      (congrArg BitVec.toNat hdeadline).trans (holdUntil_toNat hfits), hgood, herror, fun hexp => ?_, fun hexp => ?_⟩⟩
    · obtain ⟨_, hdwr'⟩ := hkept hexp
      rw [hdwr, hdwr', List.nil_append]
    · obtain ⟨_, _, _, hdwr'⟩ := hexpired hexp
      rw [hdwr, hdwr', List.singleton_append]

/-- Settles O35: the rows of R154 (`State.indicator_rows`) after the part of the step that follows its POLL: TCHK alone, or
TCHK and the RX operation. -/
theorem indicatorTransitionTable : Obligations.IndicatorTransitionTable := by
  unfold Obligations.IndicatorTransitionTable
  intro rx now s ht
  cases rx with
  | none => exact ⟨_, exec_stepIdle_ok ht, State.indicator_rows (s := { s with lastNow := some now }) ht.fits
      (State.housekeep_indicator _ now)⟩
  | some b => exact ⟨_, exec_stepRx_ok ht, State.indicator_rows (s := { s with lastNow := some now }) ht.fits
      (State.receive_housekeep_indicator _ b now)⟩

end Sys2Proof.Machine
end

section
/-! SUPPORT. The obligations about the Frame Encoder (R160, R161). The reception half of the round trip is proved for any valid
frame, not for encoded ones alone: an induction over the bytes still to come. -/

namespace Sys2Proof.Machine

/-! ### The bytes of ENCODE (R160) -/

theorem encodeFrame_payload (v : CmdVec) (k : Fin 8) : (encodeFrame v)[k.val + 1] = u8 v[k] := by
  have h := payloadOf_getElem (encodeFrame v) k k.isLt
  rw [payloadOf_encodeFrame, payloadOfCommands_getElem] at h
  exact h.symm

/-- Settles O24: the payload bytes are the unsigned readings of the commands. -/
theorem encodeBuildsFrame : Obligations.EncodeBuildsFrame := by
  unfold Obligations.EncodeBuildsFrame
  intro v s hv
  refine ⟨encodeFrame v, exec_encode_ok hv s, encodeFrame_sync v, fun k => ?_, encodeFrame_checksum v⟩
  rw [encodeFrame_payload]
  exact ⟨u8_toNat_of_nonneg (hv k), u8_toNat_of_neg (hv k)⟩

/-! ### A frame on the stream -/

/-- The inputs that present the bytes of a frame from byte `n` on, one a step. -/
def frameInputs (f : Frame) (times : Vector Time 10) (n : Nat) : List Input :=
  ((List.finRange 10).drop n).map fun i => byteInput f[i] times[i]

theorem frameInputs_of_lt (f : Frame) (times : Vector Time 10) {n : Nat} (h : n < 10) :
    frameInputs f times n = byteInput f[n] times[n] :: frameInputs f times (n + 1) := by
  rw [frameInputs, List.drop_eq_getElem_cons (by simpa using h), List.map_cons, List.getElem_finRange]
  rfl

@[simp] theorem frameInputs_ten (f : Frame) (times : Vector Time 10) : frameInputs f times 10 = [] := rfl

/-- The times of a frame's ten bytes: in order, meeting P-2, the payload within the window (R108, R216). -/
structure FrameTimes (times : Vector Time 10) : Prop where
  ordered : ∀ i j : Fin 10, i ≤ j → times[i].toNat ≤ times[j].toNat
  fits : times[9].toNat + 500000 < 2 ^ 64
  window : times[9].toNat - times[1].toNat ≤ 100000

/-- The sync byte and `CNT` payload bytes of the frame have been taken, the last of them at its time, and the
bytes after them are next on the stream. -/
structure State.Collecting (s : State) (f : Frame) (times : Vector Time 10) (rest : List Input) : Prop where
  rstate : s.rstate = .assemble
  taken : ∀ i : Fin 10, 1 ≤ i.val → i.val ≤ s.cnt.val → s.buf[i] = f[i]
  base : 1 ≤ s.cnt.val → s.base = times[1]
  lastNow : s.lastNow = some times[s.cnt.val]
  script : s.script = frameInputs f times (s.cnt.val + 1) ++ rest

/-- The frame `f` has been accepted at `now` and `rest` is what is left of the stream (R106). -/
structure State.Accepted (s : State) (f : Frame) (now : Time) (rest : List Input) : Prop where
  evt : s.evt = .frameOk
  cmd : s.cmd = some (commandsOf (payloadOf f))
  fwd : s.fwd = forwardDuties (commandsOf (payloadOf f))
  rev : s.rev = reverseDuties (commandsOf (payloadOf f))
  color : s.color = .good
  deadline : s.deadline = holdUntil now
  rstate : s.rstate = .scan
  script : s.script = rest

section
variable {s : State} {f : Frame} {times : Vector Time 10} {b : Byte} {now : Time} {rest : List Input}

theorem FrameTimes.le (ht : FrameTimes times) {i j : Nat} (hij : i ≤ j) (hj : j < 10) :
    times[i].toNat ≤ times[j].toNat :=
  ht.ordered ⟨i, by omega⟩ ⟨j, hj⟩ hij

/-- No time of the frame breaks P-2. -/
theorem FrameTimes.fits_of_lt (ht : FrameTimes times) {i : Nat} (hi : i < 10) : times[i].toNat + 500000 < 2 ^ 64 := by
  have hle : times[i].toNat ≤ times[9].toNat := ht.le (by omega) (by omega)
  have hfits := ht.fits
  omega

/-- With no time-out pending, a step that presents a byte is the RX operation on the reader the step started from. -/
theorem step_byteInput (hs : s.script = byteInput b now :: rest) (ht : s.TimeOk now) (hn : ¬ s.TimedOut now) :
    ∃ q : State, step s = .next (q.receive b now) ∧ s.SameReader q ∧ q.lastNow = some now ∧ q.script = rest := by
  obtain ⟨hreader, _⟩ := State.housekeep_of_not_timedOut (s := { s with script := rest, lastNow := some now }) hn
  obtain ⟨_, _, _, ⟨_, _, hscript⟩, hlast⟩ :=
    State.housekeep_frame { s with script := rest, lastNow := some now } now
  exact ⟨_, (step_cons hs (decodeInput_byteInput b now)).trans (exec_stepRx_ok (ht.dropInput rest)), hreader, hlast,
    hscript⟩

/-- RX.ASM.FIRST and RX.ASM.MID alike store a payload byte; only the first sets `BASE` (R104, R105). -/
theorem State.receive_payload (hr : s.rstate = .assemble) (hc : s.cnt.val < 8) :
    (s.receive b now).rstate = .assemble ∧ (s.receive b now).cnt.val = s.cnt.val + 1 ∧
    (s.receive b now).buf = (s.storeByte b).buf ∧
    (s.receive b now).base = if s.cnt = 0 then now else s.base := by
  by_cases h0 : s.cnt = 0
  · rw [State.receive_first hr h0, if_pos h0]
    exact ⟨hr, nextCnt_of_lt hc, rfl, rfl⟩
  · have h1 : 1 ≤ s.cnt.val := Nat.one_le_iff_ne_zero.mpr fun h => h0 (Fin.ext h)
    rw [State.receive_mid hr h1 (by omega), if_neg h0]
    exact ⟨hr, nextCnt_of_lt hc, rfl, rfl⟩

/-- The sync byte of a frame, in `SCAN`, opens its assembly. -/
theorem State.collecting_of_scan (hr : s.rstate = .scan) (ht : FrameTimes times) (hf : f[0] = Config.sync)
    (hlast : ∀ t, s.lastNow = some t → t.toNat ≤ times[0].toNat) (hs : s.script = frameInputs f times 0 ++ rest) :
    ∃ t, step s = .next t ∧ t.cnt = 0 ∧ t.Collecting f times rest := by
  rw [frameInputs_of_lt f times (by decide : 0 < 10), List.cons_append] at hs
  have hok : s.TimeOk times[0] := ⟨⟨hlast, ht.fits_of_lt (by decide)⟩, fun ha => by simp [hr] at ha⟩
  obtain ⟨q, hstep, ⟨hr', _⟩, hlast', hs'⟩ := step_byteInput hs hok (State.not_timedOut_of_scan hr)
  rw [State.receive_sync (hr'.trans hr) hf] at hstep
  refine ⟨_, hstep, rfl, rfl, fun i h1 h0 => ?_, fun h1 => ?_, hlast', hs'⟩
  · exact absurd (h1.trans h0) (Nat.not_succ_le_zero 0)
  · exact absurd h1 (Nat.not_succ_le_zero 0)

/-- While a frame is collected its next byte meets the premises on the clock and is inside the window. -/
theorem State.Collecting.inTime (hc : s.Collecting f times rest) (ht : FrameTimes times) :
    s.TimeOk times[s.cnt.val + 1] ∧ ¬ s.TimedOut times[s.cnt.val + 1] := by
  have hlt := s.cnt.isLt
  have hlast : times[s.cnt.val + 1].toNat ≤ times[9].toNat := ht.le (by omega) (by omega)
  have hwindow := ht.window
  refine ⟨⟨⟨fun t h => ?_, ht.fits_of_lt (by omega)⟩, fun _ h1 => ?_⟩, fun ⟨_, h1, hlate⟩ => ?_⟩
  · obtain rfl := Option.some.inj (hc.lastNow.symm.trans h)
    exact ht.le (by omega) (by omega)
  · rw [hc.base h1]
    exact ht.le (by omega) (by omega)
  · rw [hc.base h1] at hlate
    omega

/-- A step while a frame is collected: the RX operation on the next byte of the frame. -/
theorem State.Collecting.step_next (hc : s.Collecting f times rest) (ht : FrameTimes times) :
    ∃ q : State, step s = .next (q.receive f[s.cnt.val + 1] times[s.cnt.val + 1]) ∧ s.SameReader q ∧
      q.lastNow = some times[s.cnt.val + 1] ∧ q.script = frameInputs f times (s.cnt.val + 2) ++ rest := by
  have hs := hc.script
  rw [frameInputs_of_lt f times (by omega), List.cons_append] at hs
  obtain ⟨hok, hn⟩ := hc.inTime ht
  exact step_byteInput hs hok hn

/-- A payload byte other than the ninth is added to the bytes collected. -/
theorem State.Collecting.step_payload (hc : s.Collecting f times rest) (ht : FrameTimes times) (h8 : s.cnt.val < 8) :
    ∃ t, step s = .next t ∧ t.cnt.val = s.cnt.val + 1 ∧ t.Collecting f times rest := by
  obtain ⟨q, hstep, ⟨hr, hcnt, hbuf, hbase⟩, hlast, hs⟩ := hc.step_next ht
  rw [← hcnt] at h8
  obtain ⟨hr', hcnt', hbuf', hbase'⟩ := State.receive_payload (b := f[s.cnt.val + 1]) (now := times[s.cnt.val + 1])
    (hr.trans hc.rstate) h8
  obtain ⟨⟨_, _, hs'⟩, hlast'⟩ := q.receive_own f[s.cnt.val + 1] times[s.cnt.val + 1]
  rw [hcnt] at hcnt'
  refine ⟨_, hstep, hcnt', hr', fun i h1 hi => ?_, fun _ => ?_, ?_, ?_⟩
  · rw [hbuf']
    rw [hcnt'] at hi
    by_cases hlt : i.val ≤ s.cnt.val
    · rw [State.storeByte_getElem_of_ne (by rw [hcnt]; omega), hbuf]
      exact hc.taken i h1 hlt
    · have hi' : i.val = s.cnt.val + 1 := by omega
      rw [State.storeByte_getElem_of_eq (by rw [hcnt]; exact hi')]
      simp [hi']
  · rw [hbase']
    by_cases h0 : q.cnt = 0
    · simp [h0, ← hcnt]
    · rw [if_neg h0, hbase]
      exact hc.base (Nat.one_le_iff_ne_zero.mpr fun hz => h0 (hcnt.trans (Fin.ext hz)))
  · simp only [hcnt']
    exact hlast'.trans hlast
  · rw [hcnt']
    exact hs'.trans hs

/-- The ninth payload byte of a frame with a matching checksum accepts the frame. -/
theorem State.Collecting.step_last (hc : s.Collecting f times rest) (ht : FrameTimes times) (h8 : s.cnt = 8)
    (hsum : csumOf (payloadOf f) = f[9]) : ∃ t, step s = .next t ∧ t.Accepted f times[9] rest := by
  obtain ⟨q, hstep, ⟨hr, hcnt, hbuf, _⟩, _, hs⟩ := hc.step_next ht
  replace hstep : step s = .next (q.receive f[9] times[9]) := by simpa [h8] using hstep
  replace hs : q.script = rest := by simpa [h8] using hs
  have hpayload : payloadOf q.buf = payloadOf f := by
    refine Vector.ext fun k hk => ?_
    have hk8 : k + 1 ≤ s.cnt.val := by
      rw [h8]
      exact hk
    rw [payloadOf_getElem, payloadOf_getElem, hbuf]
    exact hc.taken ⟨k + 1, by omega⟩ (Nat.le_add_left 1 k) hk8
  rw [State.receive_last (hr.trans hc.rstate) (hcnt.trans h8),
    State.takeLast_of_match (hcnt.trans h8) ((congrArg csumOf hpayload).trans hsum), hpayload] at hstep
  exact ⟨_, hstep, rfl, rfl, rfl, rfl, rfl, rfl, rfl, hs⟩

/-- The `n + 1` bytes of a frame that are still to come complete it. -/
theorem State.Collecting.run (ht : FrameTimes times) (hsum : csumOf (payloadOf f) = f[9]) (n : Nat) :
    ∀ s : State, s.Collecting f times rest → s.cnt.val + n = 8 →
      ∃ t : State, Host.Core.run Sys2Proof.core (n + 1) s = .next t ∧ t.Accepted f times[9] rest := by
  induction n with
  | zero =>
    intro s hc h8
    obtain ⟨t, hstep, ha⟩ := hc.step_last ht (Fin.ext h8) hsum
    exact ⟨t, run_succ hstep, ha⟩
  | succ n ih =>
    intro s hc h8
    obtain ⟨t, hstep, hcnt, hc'⟩ := hc.step_payload ht (by omega)
    rw [run_succ hstep]
    exact ih t hc' (by omega)

/-- A valid frame presented to a reader in `SCAN`, within the window, is accepted at the time of its last byte. -/
theorem State.run_frame (hr : s.rstate = .scan) (ht : FrameTimes times) (hf : f[0] = Config.sync)
    (hsum : csumOf (payloadOf f) = f[9]) (hlast : ∀ t, s.lastNow = some t → t.toNat ≤ times[0].toNat)
    (hs : s.script = frameInputs f times 0 ++ rest) :
    ∃ t : State, Host.Core.run Sys2Proof.core 10 s = .next t ∧ t.Accepted f times[9] rest := by
  obtain ⟨t, hstep, hcnt, hc⟩ := State.collecting_of_scan hr ht hf hlast hs
  rw [run_succ hstep]
  exact State.Collecting.run ht hsum 8 t hc (by rw [hcnt]; rfl)

end

/-- Settles O28: the validator reads the encoder's payload, whose signed readings are the commands; the run of the ten bytes is
`State.run_frame`. -/
theorem encodedFrameIsReceived : Obligations.EncodedFrameIsReceived := by
  unfold Obligations.EncodedFrameIsReceived
  refine ⟨fun v hv => ⟨_, validateFrame_encodeFrame v, fun k => ?_⟩, ?_⟩
  · exact (congrArg s8 (payloadOfCommands_getElem v k k.isLt)).trans (s8_u8 (hv k))
  · intro s v times rest hv hr hord hlast hfits hwindow hs
    obtain ⟨t, hrun, ha⟩ := State.run_frame hr ⟨hord, hfits, hwindow⟩ (encodeFrame_sync v) rfl hlast hs
    have hcmds : commandsOf (payloadOf (encodeFrame v)) = v := commandsOf_payloadOfCommands hv
    refine ⟨t, hrun, ha.evt, ?_, fun k => ?_, ha.color, ?_, ha.rstate, ha.script⟩
    · rw [ha.cmd, hcmds]
    · rw [ha.fwd, ha.rev, hcmds]
      exact ⟨forwardDuties_getElem v k k.isLt, reverseDuties_getElem v k k.isLt⟩
    · rw [ha.deadline, holdUntil_toNat hfits]

end Sys2Proof.Machine
end

section
/-! SUPPORT. The obligations about a whole STEP (R170 to R174): it starts from cleared outputs, it is the sequence of its
operations, it takes a time-out before the byte, and it is the function of R173. -/

namespace Sys2Proof.Machine

/-! ### A STEP starts from cleared outputs (R174) -/

theorem State.beginStep_of_outputs (s : State) (e : Evt) (c : Option CmdVec) (d : List Color) :
    State.beginStep { s with evt := e, cmd := c, dwr := d } = s.beginStep := rfl

/-- STEP.IDLE sees a state only with its outputs cleared. -/
theorem exec_stepIdle_beginStep (now : Time) (s : State) :
    exec (.stepIdle now) s = atTime now s.beginStep fun t => .next ((t.pollAt now).checkWindow now) := rfl

/-- STEP.RX sees a state only with its outputs cleared. -/
theorem exec_stepRx_beginStep (b : Byte) (now : Time) (s : State) :
    exec (.stepRx b now) s =
      atTime now s.beginStep fun t => .next (((t.pollAt now).checkWindow now).receive b now) := rfl

/-- Settles O36: a STEP is a function of the state with cleared outputs, and RESET writes the outputs itself. -/
theorem stepOutputsStartEmpty : Obligations.StepOutputsStartEmpty := by
  unfold Obligations.StepOutputsStartEmpty
  intro e c d b now s
  have hclear := s.beginStep_of_outputs e c d
  refine ⟨?_, ?_, ?_⟩
  · rw [exec_stepIdle_beginStep, hclear, exec_stepIdle_beginStep]
  · rw [exec_stepRx_beginStep, hclear, exec_stepRx_beginStep]
  · rw [exec_reset, exec_reset]
    rfl

/-! ### The time-out before the byte (R171) -/

section
variable {s : State} {b : Byte} {now : Time}

theorem State.housekeep_color_of_timedOut (h : s.TimedOut now) : (s.housekeep now).color = .error := by
  rcases s.housekeep_cases now with ⟨_, e⟩ | ⟨hn, _⟩
  · rw [e, State.raiseFailure_color]
  · exact absurd h hn

/-- With the window exceeded a byte can reach the indicator and `BASE` no more, and of `BUF` only index 0. -/
theorem State.receive_frame_of_timedOut (h : s.TimedOut now) :
    ((s.housekeep now).receive b now).color = .error ∧ ((s.housekeep now).receive b now).base = s.base ∧
    (b ≠ Config.sync → ((s.housekeep now).receive b now).buf = s.buf) ∧
    (b = Config.sync → ((s.housekeep now).receive b now).buf = s.buf.set 0 Config.sync) := by
  obtain ⟨hscan, _, _⟩ := State.housekeep_of_timedOut h
  obtain ⟨_, hbuf, hbase, _⟩ := s.housekeep_frame now
  have hcolor := State.housekeep_color_of_timedOut h
  by_cases hb : b = Config.sync
  · rw [State.receive_sync hscan hb, State.acceptSync_buf, hbuf]
    exact ⟨hcolor, hbase, fun hne => absurd hb hne, fun _ => rfl⟩
  · rw [State.receive_drop hscan hb]
    exact ⟨hcolor, hbase, fun _ => hbuf, fun he => absurd he hb⟩

end

/-- Settles O33: the row of the time-out (`State.row_timedOut`) with its frame; a new sync byte goes to index 0 of `BUF`. -/
theorem timeoutIsTakenBeforeByte : Obligations.TimeoutIsTakenBeforeByte := by
  unfold Obligations.TimeoutIsTakenBeforeByte
  intro b now s ht hr hc hlate
  have hout : State.TimedOut { s with lastNow := some now } now := ⟨hr, hc, hlate⟩
  obtain ⟨hcnt, hevt, hduties, hscan, hopen⟩ := State.row_timedOut (b := b) hout
  obtain ⟨hcolor, hbase, hkept, hsync⟩ := State.receive_frame_of_timedOut (b := b) hout
  refine ⟨_, exec_stepRx_ok ht, hevt, hcolor, hcnt, hbase, hduties, fun i hi => ?_,
    fun hb => ⟨hscan hb, hkept hb⟩, fun hb => ⟨hopen hb, ?_⟩⟩
  · by_cases hb : b = Config.sync
    · have hi' : 0 ≠ i.val := fun h => hi (Fin.ext h.symm)
      simp [hsync hb, hi']
    · rw [hkept hb]
  · simp [hsync hb, Config.sync]

/-! ### A STEP as the sequence of its operations (R170, R72) -/

section
variable {s : State} {b : Byte} {now : Time} {k j : State → Host.Outcome State Fault Refusal}

/-- What follows a guarded operation runs behind the same guard. -/
theorem andThen_atTime : andThen (atTime now s k) j = atTime now s fun t => andThen (k t) j := by
  unfold atTime
  split
  · rfl
  · split <;> rfl

/-- Behind the guard only states that passed it count. -/
theorem atTime_congr (h : s.TimeOk now → k { s with lastNow := some now } = j { s with lastNow := some now }) :
    atTime now s k = atTime now s j := by
  unfold atTime
  cases hfits : clockFits now with
  | false => rfl
  | true =>
    cases hmono : s.clockMonotonic now with
    | false => rfl
    | true => exact h ((s.timeOk_iff now).mpr ⟨hfits, hmono⟩)

/-- The premises on the clock hold at `now` and `now` is the reading recorded: the guard has been passed. -/
structure State.Clocked (s : State) (now : Time) : Prop extends s.TimeOk now where
  recorded : s.lastNow = some now

theorem State.TimeOk.clocked (ht : s.TimeOk now) : State.Clocked { s with lastNow := some now } now :=
  ⟨ht.record_of_le le_rfl ht.fits, rfl⟩

/-- A guard that has been passed at `now` does nothing at `now`. -/
theorem State.Clocked.atTime_eq (h : s.Clocked now) : atTime now s k = k s := by
  rw [atTime_of_ok h.toTimeOk, ← h.recorded]

theorem State.Clocked.pollAt (h : s.Clocked now) : (s.pollAt now).Clocked now := by
  refine ⟨h.toTimeOk.pollAt now, ?_⟩
  rcases s.pollAt_cases now with ⟨_, e⟩ | ⟨_, e⟩ <;> rw [e] <;> exact h.recorded

/-- TCHK at most closes the window, of which the premises then ask nothing. -/
theorem State.Clocked.checkWindow (h : s.Clocked now) : (s.checkWindow now).Clocked now := by
  rcases s.checkWindow_cases now with ⟨_, e⟩ | ⟨_, e⟩ <;> rw [e]
  · exact ⟨⟨⟨h.monotonic, h.fits⟩, nofun⟩, h.recorded⟩
  · exact h

/-- The operation R72 selects, run as an operation of its own. -/
def execSelected (b : Byte) (now : Time) (s : State) : Host.Outcome State Fault Refusal :=
  exec ((selectRx s.rstate s.cnt b).instr b now) s

/-- In a step the selected operation is never refused: it is the RX operation of the step. -/
theorem State.Clocked.execSelected_eq (h : s.Clocked now) (b : Byte) :
    execSelected b now s = .next (s.receive b now) := by
  unfold execSelected State.receive
  rcases selectRx_cases s.rstate s.cnt b with
    ⟨hr, _, e⟩ | ⟨hr, hb, e⟩ | ⟨hr, hc, e⟩ | ⟨hr, h1, h7, e⟩ | ⟨hr, hc, e⟩ <;> rw [e]
  · exact exec_rxScanSync_ok hr
  · exact exec_rxScanDrop_ok hr hb
  · exact (if_pos e).trans h.atTime_eq
  · exact exec_rxAsmMid_ok hr h1 h7
  · exact (if_pos e).trans h.atTime_eq

theorem exec_poll_andThen (s : State) :
    andThen (exec (.poll now) s) j = atTime now s fun t => j (t.pollAt now) := by
  rw [exec_poll, andThen_atTime]
  rfl

theorem State.Clocked.exec_tchk_eq (h : s.Clocked now) : exec (.tchk now) s = .next (s.checkWindow now) := by
  rw [exec_tchk, h.atTime_eq]

/-- STEP.IDLE is POLL and TCHK on cleared outputs. -/
theorem exec_stepIdle_eq_sequence (now : Time) (s : State) :
    exec (.stepIdle now) s = andThen (exec (.poll now) s.beginStep) (exec (.tchk now)) := by
  rw [exec_stepIdle_beginStep, exec_poll_andThen]
  exact atTime_congr fun ht => ht.clocked.pollAt.exec_tchk_eq.symm

/-- STEP.RX is POLL, TCHK and the selected RX operation on cleared outputs. -/
theorem exec_stepRx_eq_sequence (b : Byte) (now : Time) (s : State) :
    exec (.stepRx b now) s = andThen (exec (.poll now) s.beginStep) fun s1 =>
      andThen (exec (.tchk now) s1) (execSelected b now) := by
  rw [exec_stepRx_beginStep, exec_poll_andThen]
  refine atTime_congr fun ht => ?_
  have hpolled := ht.clocked.pollAt
  rw [hpolled.exec_tchk_eq, andThen_next, hpolled.checkWindow.execSelected_eq]

end

/-- Settles O31: `exec_stepIdle_eq_sequence` and `exec_stepRx_eq_sequence`; the case distinction of the statement is R72's
selection, row by row. -/
theorem stepIsSequenceOfOperations : Obligations.StepIsSequenceOfOperations := by
  unfold Obligations.StepIsSequenceOfOperations
  refine ⟨exec_stepIdle_eq_sequence, fun b now s => (exec_stepRx_eq_sequence b now s).trans ?_⟩
  refine congrArg (andThen _) (funext fun s1 => congrArg (andThen _) (funext fun s2 => ?_))
  unfold execSelected
  rcases selectRx_cases s2.rstate s2.cnt b with
    ⟨hr, hb, e⟩ | ⟨hr, hb, e⟩ | ⟨hr, hc, e⟩ | ⟨hr, h1, h7, e⟩ | ⟨hr, hc, e⟩ <;> rw [e, hr]
  · exact (if_pos hb).symm
  · exact (if_neg hb).symm
  · exact (if_pos hc).symm
  · have hc : s2.cnt.val ≠ 0 := by omega
    exact ((if_neg hc).trans (if_pos h7)).symm
  · have hc0 : s2.cnt.val ≠ 0 := by omega
    have hc7 : ¬ s2.cnt.val ≤ 7 := by omega
    exact ((if_neg hc0).trans (if_neg hc7)).symm

/-! ### A STEP as the function of R173 -/

/-! The lanes of a frame, one expression for all eight channels. -/

theorem commandsOf_payloadOf_eq_ofFn (f : Frame) :
    commandsOf (payloadOf f) = Vector.ofFn fun k : Fin 8 => s8 (f[k.val + 1]) := by
  ext k hk
  simp

theorem forwardDuties_eq_ofFn (cmd : CmdVec) :
    forwardDuties cmd = Vector.ofFn fun k : Fin 8 => (splitDuty cmd[k]).1 := by
  ext k hk
  simp

theorem reverseDuties_eq_ofFn (cmd : CmdVec) :
    reverseDuties cmd = Vector.ofFn fun k : Fin 8 => (splitDuty cmd[k]).2 := by
  ext k hk
  simp

theorem refPoll_eq (s : State) (now : Time) : refPoll s now = s.beginStep.pollAt now := by
  rcases s.beginStep.pollAt_cases now with ⟨h, e⟩ | ⟨h, e⟩ <;> rw [e]
  · exact if_pos h
  · exact if_neg h

theorem refTchk_eq (s : State) (now : Time) : refTchk s now = s.checkWindow now := by
  rcases s.checkWindow_cases now with ⟨h, e⟩ | ⟨h, e⟩ <;> rw [e]
  · exact if_pos h
  · exact if_neg h

/-- R173 judges the frame as RX.ASM.LAST does after its store. -/
theorem refComplete_eq (s : State) (buf : Frame) (base now : Time) :
    refComplete s buf base now =
      (State.judge { s with buf := buf, base := base } (validateFrame buf) now).setReader .scan 0 := by
  cases hv : validateFrame buf with
  | ok p =>
    obtain ⟨hsum, rfl⟩ := validateFrame_eq_ok.mp hv
    refine (if_pos hsum).trans ?_
    simp only [← commandsOf_payloadOf_eq_ofFn, ← forwardDuties_eq_ofFn, ← reverseDuties_eq_ofFn]
    rfl
  | checksumMismatch => exact if_neg (validateFrame_eq_mismatch.mp hv)

section
variable {s : State} {b : Byte} {now : Time}

/-- R173 on a byte before the ninth: `BASE` is written with the first one only. -/
theorem refRx_of_lt (hr : s.rstate = .assemble) (hc : s.cnt.val < 8) :
    refRx s now b =
      { s.storeByte b with base := if s.cnt = 0 then now else s.base, cnt := nextCnt s.cnt } := by
  have hscan : s.rstate ≠ .scan := by simp [hr]
  have hlt : s.cnt.val + 1 < 9 := by omega
  rw [nextCnt, dif_pos hlt]
  exact (if_neg hscan).trans (dif_pos hlt)

/-- R173 on the ninth byte. -/
theorem refRx_of_eight (hr : s.rstate = .assemble) (hc : s.cnt.val = 8) :
    refRx s now b = refComplete s (s.storeByte b).buf (if s.cnt = 0 then now else s.base) now := by
  have hscan : s.rstate ≠ .scan := by simp [hr]
  have hfull : ¬ s.cnt.val + 1 < 9 := by omega
  exact (if_neg hscan).trans (dif_neg hfull)

end

theorem refRx_eq (s : State) (now : Time) (b : Byte) : refRx s now b = s.receive b now := by
  rcases s.receive_cases b now with
    ⟨hr, hb, e⟩ | ⟨hr, hb, e⟩ | ⟨hr, hc, e⟩ | ⟨hr, h1, h7, e⟩ | ⟨hr, hc, e⟩ <;> rw [e]
  · exact (if_pos hr).trans (if_pos hb)
  · exact (if_pos hr).trans (if_neg hb)
  · rw [refRx_of_lt hr (by omega), if_pos (Fin.ext hc)]
    rfl
  · rw [refRx_of_lt hr (by omega), if_neg (by omega)]
    rfl
  · rw [refRx_of_eight hr hc, if_neg (by omega), refComplete_eq]
    rfl

theorem stepReference_none (s : State) (now : Time) : stepReference s now none = s.housekeep now := by
  unfold stepReference
  rw [refPoll_eq, refTchk_eq]
  rfl

theorem stepReference_some (s : State) (now : Time) (b : Byte) :
    stepReference s now (some b) = (s.housekeep now).receive b now := by
  unfold stepReference
  rw [refPoll_eq, refTchk_eq]
  exact refRx_eq _ now b

/-- Settles O32: each paragraph of R173 is the operation it restates (`refPoll_eq`, `refTchk_eq`, `refRx_eq`). -/
theorem stepAgreesWithReference : Obligations.StepAgreesWithReference := by
  unfold Obligations.StepAgreesWithReference
  refine ⟨fun now s ht => ?_, fun b now s ht => ?_⟩
  · rw [stepReference_none, exec_stepIdle_ok ht]
  · rw [stepReference_some, exec_stepRx_ok ht]

end Sys2Proof.Machine
end

section
/-! SUPPORT. The obligations about reset and about broken clock premises: RESET whatever its word holds (R210, R212), and the
refusal of an operation at a time that breaks P-1 or P-2 (R216, U5). -/

namespace Sys2Proof.Machine

/-! ### RESET -/

theorem State.resetRegisters_duties (s : State) (k : Fin 8) :
    s.resetRegisters.fwd[k] = 0#8 ∧ s.resetRegisters.rev[k] = 0#8 :=
  ⟨Vector.getElem_replicate k.isLt, Vector.getElem_replicate k.isLt⟩

/-- A word with `rst` = 1 is RESET, whatever its other fields and the clock (R212, R214). -/
theorem step_of_rst {s : State} {word : BitVec 10} {now : Time} {rest : List Input}
    (hs : s.script = .stim word now :: rest) (h9 : word.getLsbD 9 = true) :
    step s = exec .reset { s with script := rest } :=
  step_cons hs (congrArg Except.ok (decodeStim_of_rst h9))

/-- Settles O1: the fields of `State.resetRegisters`, and `step_of_rst` for the word. -/
theorem resetPutsRegistersInResetState : Obligations.ResetPutsRegistersInResetState := by
  unfold Obligations.ResetPutsRegistersInResetState
  constructor
  · exact fun s => ⟨_, exec_reset s, rfl, rfl, rfl, rfl, s.resetRegisters_duties, rfl, rfl, rfl⟩
  · exact fun _ _ _ _ => step_of_rst

/-! ### The guard's two refusals -/

section
variable {s : State} {now : Time} {k : State → Host.Outcome State Fault Refusal}

theorem atTime_eq_clockOverflow (h : 2 ^ 64 ≤ now.toNat + 500000) : atTime now s k = .refused .clockOverflow := by
  rcases atTime_cases now s k with ⟨ht, _⟩ | ⟨_, e⟩ | ⟨hf, _, _⟩
  · exact absurd ht.fits (not_lt.mpr h)
  · exact e
  · exact absurd hf (not_lt.mpr h)

theorem atTime_eq_clockWentBack (hf : now.toNat + 500000 < 2 ^ 64) (ht : ¬ s.TimeOk now) :
    atTime now s k = .refused .clockWentBack := by
  rcases atTime_cases now s k with ⟨ht', _⟩ | ⟨hf', _⟩ | ⟨_, _, e⟩
  · exact absurd ht' ht
  · exact absurd hf hf'
  · exact e

/-- `now` is behind the recorded clock, or behind `BASE` while the window runs (P-1, I-8). -/
theorem State.not_timeOk_of_behind
    (h : (∃ t, s.lastNow = some t ∧ now.toNat < t.toNat) ∨
      (s.rstate = .assemble ∧ 1 ≤ s.cnt.val ∧ now.toNat < s.base.toNat)) : ¬ s.TimeOk now := by
  intro ht
  rcases h with ⟨t, hl, hlt⟩ | ⟨hr, hc, hlt⟩
  · exact absurd (ht.monotonic t hl) (not_le.mpr hlt)
  · exact absurd (ht.window hr hc) (not_le.mpr hlt)

end

/-- Every operation with the operand `now` runs under the guard, RX.ASM.FIRST and RX.ASM.LAST where R72 selects them. -/
theorem exec_eq_atTime {b : Byte} {c : Color} {now : Time} {s : State} {i : Instr}
    (h : i ∈ [Instr.stepIdle now, .stepRx b now, .poll now, .tchk now, .trigger c now] ∨
      (i = .rxAsmFirst b now ∧ s.rstate = .assemble ∧ s.cnt = 0) ∨
      (i = .rxAsmLast b now ∧ s.rstate = .assemble ∧ s.cnt = 8)) :
    ∃ k, exec i s = atTime now s k := by
  rcases h with h | ⟨rfl, hr, hc⟩ | ⟨rfl, hr, hc⟩
  · simp only [List.mem_cons, List.not_mem_nil, or_false] at h
    rcases h with rfl | rfl | rfl | rfl | rfl
    · exact ⟨_, exec_stepIdle now s⟩
    · exact ⟨_, exec_stepRx b now s⟩
    · exact ⟨_, exec_poll now s⟩
    · exact ⟨_, exec_tchk now s⟩
    · exact ⟨_, exec_trigger c now s⟩
  · exact ⟨_, if_pos (selectRx_eq_first hr hc)⟩
  · exact ⟨_, if_pos (selectRx_eq_last hr hc)⟩

/-- Settles O45: the operation runs under the guard (`exec_eq_atTime`), which refuses by the premise that is broken. -/
theorem brokenClockPremiseIsRefused : Obligations.BrokenClockPremiseIsRefused := by
  unfold Obligations.BrokenClockPremiseIsRefused
  intro b c now s i hi
  obtain ⟨k, hk⟩ := exec_eq_atTime hi
  rw [hk]
  exact ⟨atTime_eq_clockOverflow, fun hf hb => atTime_eq_clockWentBack hf (State.not_timeOk_of_behind hb)⟩

end Sys2Proof.Machine
end
